-- ==== Sys2Proof/Word.lean ====
section
/-! DEFINITION. The word types of oce CORE (spec/00_scope.md R5, section 5): a byte is 8 bits, uN is an unsigned
integer of N bits. Byte order and arithmetic that a test could show wrong live in Decode.lean and Machine/. -/

namespace Sys2Proof

/-- A byte, 8 bits unsigned. -/
abbrev Byte := BitVec 8
/-- The code of a scanner state or of a fatal error, 4 bits (R13, R150). -/
abbrev Code4 := BitVec 4
/-- A checksum, 16 bits unsigned (R5). -/
abbrev U16 := BitVec 16
/-- A register of the register map, a length or a statistic, 32 bits unsigned (R5, R22). -/
abbrev U32 := BitVec 32
/-- A stream offset or an entry count, 64 bits unsigned (R5). -/
abbrev U64 := BitVec 64

end Sys2Proof
end

