-- ==== Sys2Proof/Config.lean ====
section
/-! DEFINITION. The constants the source fixes (spec/00_scope.md R5) and the parameters it leaves open (R6). -/

namespace Sys2Proof.Config

/-- `SYNC`, the first byte of every header (R5). -/
def sync : Byte := 0xA5
/-- `SEED`, the checksum's seed (R5). -/
def seed : U16 := 0xB58C
/-- `HS10`, the `header_size` value of the 10-byte layout (R5). -/
def hs10 : Byte := 10
/-- `HS12`, the `header_size` value of the 12-byte layout (R5). -/
def hs12 : Byte := 12
/-- `HDR_WINDOW`, the bytes of the header window (R5). -/
def hdrWindow : Nat := 12
/-- `FAIL_CAP`, the cap on `checksum_failures` (R5). -/
def failCap : Nat := 100
/-- `FAMILY_NOMINAL`, the reset and start value of `last_family` (R5, R17). -/
def familyNominal : Byte := 0x10
/-- `KNOWN_IDS`, the record-type identifiers treated as known (R5, R67). -/
def knownIds : List Byte := [21, 22, 23, 24, 26, 27, 28, 29, 30, 31, 160]
/-- `IDX_FACTOR`, the growth factor of the index buffer (R6). -/
def idxFactor : Nat := 2

/-- `OFFSET_REF`: which byte an index entry's `offset` names (R6). -/
inductive OffsetRef where
  /-- the first payload byte -/
  | payload
  /-- the sync byte -/
  | header
  deriving DecidableEq, Repr

/-- The open parameters of R6: one value for each implementation, constant in every run (log entry 1). -/
structure Params where
  /-- `INDEX_CAP0`, the initial capacity of the index in entries, at least 1 -/
  indexCap0 : U64
  /-- `INDEX_MAX`, the most entries the index can hold -/
  indexMax : U64
  /-- `OFFSET_REF` -/
  offsetRef : OffsetRef
  deriving DecidableEq, Repr

/-- What R6 asks of the parameters: `INDEX_CAP0` is a natural number ≥ 1. -/
abbrev Params.Admissible (p : Params) : Prop := 1 ≤ p.indexCap0.toNat

/-- The numbers R6 gives "where a number is needed" (log entry 1). -/
def Params.spec : Params := { indexCap0 := 1024, indexMax := 0xFFFFFFFFFFFFFFFF, offsetRef := .payload }

end Sys2Proof.Config
end

