-- ==== Sys2Proof/Syntax.lean ====
section
/-! DEFINITION. What the block's decoders tell apart: one constructor of `Instr` per row of
spec/opcode_table.json (spec/30_encoding.md R72), the seven code spaces, the scanner states, the fatal codes
and the decoded header record. -/

namespace Sys2Proof

/-- The header record (spec/10_state.md R10, R11): the decoded fields `h.*`. -/
structure Header where
  sync : Byte
  headerSize : Byte
  id : Byte
  family : Byte
  dataSize : U32
  dataChecksum : U16
  headerChecksum : U16
  deriving DecidableEq, Repr

/-- The scanner states of R13. The reserved codes 10 to 15 are never produced (U4, log entry 21). -/
inductive ScanState where
  | idle | seekingSync | readHeader | validateHeader | readPayload
  | validatePayload | emit | resync | done | fatal
  deriving DecidableEq, Repr

/-- The fatal error codes of R150, `none` being `E_NONE`. Codes 7 to 15 are never produced (U4, log entry 21). -/
inductive ErrCode where
  | none | cannotOpen | noSync | badSync | hdrSize | cksumCap | indexFull
  deriving DecidableEq, Repr

/-- The formats of the opcode table (R72), each a code space of its own. -/
inductive Format where
  /-- the header formats H10 and H12, bytes of the stream -/
  | wire
  /-- the resynchronizer's plausible-header test, four bytes of the stream -/
  | wire4
  /-- the `id` byte of a header -/
  | ident
  /-- the scanner's state register -/
  | state
  /-- component functions, which have no encoding -/
  | func
  /-- the register `CTRL` -/
  | ctrl
  /-- the register field `ERR_CODE` -/
  | err
  deriving DecidableEq, Repr

/-- One constructor per row of spec/opcode_table.json. -/
inductive Instr where
  -- WIRE
  /-- REC10: a 10-byte header (R61, R93) -/
  | rec10 (id family : Byte) (dataSize dataChecksum headerChecksum : U16)
  /-- REC12: a 12-byte header (R62, R94) -/
  | rec12 (id family : Byte) (dataSize : U32) (dataChecksum headerChecksum : U16)
  -- WIRE4
  /-- RESYNC_CANDIDATE_10 (R68, R101) -/
  | resyncCandidate10 (id family : Byte)
  /-- RESYNC_CANDIDATE_12 (R68, R101) -/
  | resyncCandidate12 (id family : Byte)
  -- ID (R67)
  | id21 | id22 | id23 | id24 | id26 | id27 | id28 | id29 | id30 | id31 | id160
  /-- ID_UNKNOWN: any of the other 245 identifiers -/
  | idUnknown (id : Byte)
  -- STATE (R13, R110)
  | idle | seekingSync | readHeader | validateHeader | readPayload
  | validatePayload | emit | resync | done | fatal
  -- FUNC
  /-- CKSUM of a byte span (R80) -/
  | cksum (span : List Byte)
  /-- IDX_APPEND(off, len, id, k) (R142) -/
  | idxAppend (off : U64) (len : U32) (id : Byte) (known : Bool)
  /-- PBUF_GROW (R145) -/
  | pbufGrow
  -- CTRL (R22, R111, R171)
  | start | softReset
  -- ERR (R150)
  | eOpen | eNoSync | eBadSync | eHdrSize | eCksumCap | eIndexFull
  deriving DecidableEq, Repr

/-- The code space an instruction's encoding lies in (R72). -/
def Instr.format : Instr → Format
  | .rec10 .. | .rec12 .. => .wire
  | .resyncCandidate10 .. | .resyncCandidate12 .. => .wire4
  | .id21 | .id22 | .id23 | .id24 | .id26 | .id27 | .id28 | .id29 | .id30 | .id31 | .id160
  | .idUnknown _ => .ident
  | .idle | .seekingSync | .readHeader | .validateHeader | .readPayload
  | .validatePayload | .emit | .resync | .done | .fatal => .state
  | .cksum _ | .idxAppend .. | .pbufGrow => .func
  | .start | .softReset => .ctrl
  | .eOpen | .eNoSync | .eBadSync | .eHdrSize | .eCksumCap | .eIndexFull => .err

end Sys2Proof
end

