-- ==== Sys2Proof/WellFormed.lean ====
section
/-! DEFINITION. Which terms of `Instr` the encoding tables admit. The widths of the operands are in their types;
the one relation left to check is that ID_UNKNOWN stands for an identifier outside `KNOWN_IDS`
(spec/30_encoding.md R67, R72: the row "applies when no other `ID` row matches"). -/

namespace Sys2Proof

/-- The check of one instruction term. -/
def Instr.wellFormed : Instr → Bool
  | .idUnknown b => !Config.knownIds.contains b
  | .rec10 .. | .rec12 .. | .resyncCandidate10 .. | .resyncCandidate12 ..
  | .id21 | .id22 | .id23 | .id24 | .id26 | .id27 | .id28 | .id29 | .id30 | .id31 | .id160
  | .idle | .seekingSync | .readHeader | .validateHeader | .readPayload
  | .validatePayload | .emit | .resync | .done | .fatal
  | .cksum _ | .idxAppend .. | .pbufGrow
  | .start | .softReset
  | .eOpen | .eNoSync | .eBadSync | .eHdrSize | .eCksumCap | .eIndexFull => true

end Sys2Proof
end

