-- ==== Sys2Proof/Decode.lean ====
section
/-! DEFINITION. Decoding of the seven code spaces (spec/30_encoding.md R60 to R72), total on any bytes and rejecting
by name, the byte-order helpers it rests on, and after it the encoder. -/

namespace Sys2Proof

/-! ## Byte order (R46, R47; spec/00_scope.md section 5) -/

/-- `le16(b0, b1) = b0 + 256·b1`. -/
def le16 (b0 b1 : Byte) : U16 := BitVec.ofNat 16 (b0.toNat + 256 * b1.toNat)

/-- `le32(b0, b1, b2, b3) = b0 + 256·b1 + 65536·b2 + 16777216·b3`. -/
def le32 (b0 b1 b2 b3 : Byte) : U32 :=
  BitVec.ofNat 32 (b0.toNat + 256 * b1.toNat + 65536 * b2.toNat + 16777216 * b3.toNat)

/-- A 64-bit quantity from two 32-bit halves, the less significant first (R22, R47). -/
def lohi (lo hi : U32) : U64 := BitVec.ofNat 64 (lo.toNat + 4294967296 * hi.toNat)

/-- Byte `k` of a number, byte 0 the least significant. -/
def byteOf (v k : Nat) : Byte := BitVec.ofNat 8 (v / 256 ^ k)

/-- The two bytes of a 16-bit value, little-endian. -/
def bytes16 (v : U16) : List Byte := [byteOf v.toNat 0, byteOf v.toNat 1]

/-- The four bytes of a 32-bit value, little-endian. -/
def bytes32 (v : U32) : List Byte := [byteOf v.toNat 0, byteOf v.toNat 1, byteOf v.toNat 2, byteOf v.toNat 3]

/-- The eight bytes of a 64-bit value, little-endian. -/
def bytes64 (v : U64) : List Byte :=
  [byteOf v.toNat 0, byteOf v.toNat 1, byteOf v.toNat 2, byteOf v.toNat 3,
   byteOf v.toNat 4, byteOf v.toNat 5, byteOf v.toNat 6, byteOf v.toNat 7]

/-! ## Headers (R61 to R66, R92 to R94) -/

/-- Why the bytes at the cursor are no complete header, in the order R92 tests (R154). -/
inductive HeaderError where
  /-- check 1: the first byte is not the sync byte -/
  | badSync
  /-- checks 2 and 4: the stream ends before the header does -/
  | short
  /-- check 3: `header_size` is neither 10 nor 12 -/
  | badSize
  deriving DecidableEq, Repr

/-- The header record of an H10 header with these fields; `data_size` is zero-extended (R64, R93). -/
def Header.h10 (id family : Byte) (dataSize dataChecksum headerChecksum : U16) : Header :=
  { sync := Config.sync, headerSize := Config.hs10, id := id, family := family,
    dataSize := BitVec.ofNat 32 dataSize.toNat, dataChecksum := dataChecksum, headerChecksum := headerChecksum }

/-- The header record of an H12 header with these fields (R64, R94). -/
def Header.h12 (id family : Byte) (dataSize : U32) (dataChecksum headerChecksum : U16) : Header :=
  { sync := Config.sync, headerSize := Config.hs12, id := id, family := family,
    dataSize := dataSize, dataChecksum := dataChecksum, headerChecksum := headerChecksum }

/-- `HDR_PARSE.H10` (R93), from the bytes after `sync` and `header_size`. -/
def parseH10 : List Byte → Except HeaderError Header
  | id :: family :: n0 :: n1 :: d0 :: d1 :: h0 :: h1 :: _ =>
    .ok (Header.h10 id family (le16 n0 n1) (le16 d0 d1) (le16 h0 h1))
  | _ => .error .short

/-- `HDR_PARSE.H12` (R94), from the bytes after `sync` and `header_size`. -/
def parseH12 : List Byte → Except HeaderError Header
  | id :: family :: n0 :: n1 :: n2 :: n3 :: d0 :: d1 :: h0 :: h1 :: _ =>
    .ok (Header.h12 id family (le32 n0 n1 n2 n3) (le16 d0 d1) (le16 h0 h1))
  | _ => .error .short

/-- The checks of R92 over the bytes that are there, in R92's order, then the decoding of R93 or R94. With no byte at
all, which R91 excludes, the sync test fails (log entry 15). -/
def parseHeader : List Byte → Except HeaderError Header
  | [] => .error .badSync
  | [b0] => if b0 = Config.sync then .error .short else .error .badSync
  | b0 :: b1 :: rest =>
    if b0 = Config.sync then
      if b1 = Config.hs10 then parseH10 rest
      else if b1 = Config.hs12 then parseH12 rest
      else .error .badSize
    else .error .badSync

/-! ## The decoders of the code spaces -/

/-- Why a decoder gives no instruction. -/
inductive DecodeError where
  /-- WIRE, WIRE4: the bytes are no header; which check failed -/
  | header (e : HeaderError)
  /-- STATE: codes 10 to 15 (R13) -/
  | reservedState
  /-- ERR: codes 0 (E_NONE, no error) and 7 to 15 (R150) -/
  | noError
  /-- CTRL: a value with bits 0 and 1 both 0 commands nothing (R22) -/
  | noCommand
  /-- FUNC: no encoding (R72) -/
  | noEncoding
  /-- there are not enough bytes for the field the format reads -/
  | noBytes
  deriving DecidableEq, Repr

/-- The WIRE row of a decoded header: byte 1 alone tells the two apart (R63). -/
def Instr.ofHeader (h : Header) : Instr :=
  if h.headerSize = Config.hs10 then
    .rec10 h.id h.family (BitVec.ofNat 16 h.dataSize.toNat) h.dataChecksum h.headerChecksum
  else .rec12 h.id h.family h.dataSize h.dataChecksum h.headerChecksum

/-- WIRE: the header at the front of the bytes, and the bytes after it. -/
def decodeWire (bs : List Byte) : Except DecodeError (Instr × List Byte) :=
  match parseHeader bs with
  | .error e => .error (.header e)
  | .ok h => .ok (Instr.ofHeader h, bs.drop h.headerSize.toNat)

/-- WIRE4: the plausible-header pattern of R68, `A5 (0A|0C) xx ff`; whether `ff` is `last_family` is a condition on
state and not part of the pattern (R72). -/
def decodeCandidate : List Byte → Except DecodeError (Instr × List Byte)
  | b0 :: b1 :: id :: family :: rest =>
    if b0 = Config.sync then
      if b1 = Config.hs10 then .ok (.resyncCandidate10 id family, rest)
      else if b1 = Config.hs12 then .ok (.resyncCandidate12 id family, rest)
      else .error (.header .badSize)
    else .error (.header .badSync)
  | _ => .error (.header .short)

/-- ID: the row an `id` byte selects, `ID_UNKNOWN` when no other matches (R67, R72). -/
def decodeId (b : Byte) : Instr :=
  match b.toNat with
  | 21 => .id21
  | 22 => .id22
  | 23 => .id23
  | 24 => .id24
  | 26 => .id26
  | 27 => .id27
  | 28 => .id28
  | 29 => .id29
  | 30 => .id30
  | 31 => .id31
  | 160 => .id160
  | _ => .idUnknown b

/-- STATE: the operation a code of the state register selects (R69, R110). -/
def decodeState (c : Code4) : Except DecodeError Instr :=
  match c.toNat with
  | 0 => .ok .idle
  | 1 => .ok .seekingSync
  | 2 => .ok .readHeader
  | 3 => .ok .validateHeader
  | 4 => .ok .readPayload
  | 5 => .ok .validatePayload
  | 6 => .ok .emit
  | 7 => .ok .resync
  | 8 => .ok .done
  | 9 => .ok .fatal
  | _ => .error .reservedState

/-- ERR: the fatal condition a code of `ERR_CODE` names (R150). -/
def decodeErr (c : Code4) : Except DecodeError Instr :=
  match c.toNat with
  | 1 => .ok .eOpen
  | 2 => .ok .eNoSync
  | 3 => .ok .eBadSync
  | 4 => .ok .eHdrSize
  | 5 => .ok .eCksumCap
  | 6 => .ok .eIndexFull
  | _ => .error .noError

/-- CTRL: the command a value written to the register gives; bits 31:2 are ignored, `SOFT_RESET` wins (R22). -/
def decodeCtrl (v : U32) : Except DecodeError Instr :=
  if v.getLsbD 1 then .ok .softReset
  else if v.getLsbD 0 then .ok .start
  else .error .noCommand

/-- The decoder of a code space on bytes: the instruction at the front and the bytes after it. A STATE or ERR code is
the low four bits of one byte; a CTRL value is four bytes, little-endian (R47). -/
def decode : Format → List Byte → Except DecodeError (Instr × List Byte)
  | .wire, bs => decodeWire bs
  | .wire4, bs => decodeCandidate bs
  | .ident, b :: rest => .ok (decodeId b, rest)
  | .state, b :: rest => (decodeState (b.setWidth 4)).map (·, rest)
  | .err, b :: rest => (decodeErr (b.setWidth 4)).map (·, rest)
  | .ctrl, b0 :: b1 :: b2 :: b3 :: rest => (decodeCtrl (le32 b0 b1 b2 b3)).map (·, rest)
  | .func, _ => .error .noEncoding
  | _, _ => .error .noBytes

/-! ## Encoding (R61, R62, R68, R69, R72) -/

/-- The bytes of an instruction in its code space; a FUNC row has none. -/
def encode : Instr → List Byte
  | .rec10 id family n d h =>
    [Config.sync, Config.hs10, id, family] ++ bytes16 n ++ bytes16 d ++ bytes16 h
  | .rec12 id family n d h =>
    [Config.sync, Config.hs12, id, family] ++ bytes32 n ++ bytes16 d ++ bytes16 h
  | .resyncCandidate10 id family => [Config.sync, Config.hs10, id, family]
  | .resyncCandidate12 id family => [Config.sync, Config.hs12, id, family]
  | .id21 => [0x15]
  | .id22 => [0x16]
  | .id23 => [0x17]
  | .id24 => [0x18]
  | .id26 => [0x1A]
  | .id27 => [0x1B]
  | .id28 => [0x1C]
  | .id29 => [0x1D]
  | .id30 => [0x1E]
  | .id31 => [0x1F]
  | .id160 => [0xA0]
  | .idUnknown b => [b]
  | .idle => [0]
  | .seekingSync => [1]
  | .readHeader => [2]
  | .validateHeader => [3]
  | .readPayload => [4]
  | .validatePayload => [5]
  | .emit => [6]
  | .resync => [7]
  | .done => [8]
  | .fatal => [9]
  | .cksum _ => []
  | .idxAppend .. => []
  | .pbufGrow => []
  | .start => [1, 0, 0, 0]
  | .softReset => [2, 0, 0, 0]
  | .eOpen => [1]
  | .eNoSync => [2]
  | .eBadSync => [3]
  | .eHdrSize => [4]
  | .eCksumCap => [5]
  | .eIndexFull => [6]

/-! ## The opcode table's words (log entry 13) -/

/-- The `n` bytes of a table word, the first byte of the instruction the most significant: the table numbers a WIRE
row's word `256·byte0 + byte1` and a WIRE4 row's `byte0·2^24 + … + byte3` (R72). -/
def tableBytes (n w : Nat) : List Byte :=
  match n with
  | 0 => []
  | n + 1 => byteOf w n :: tableBytes n w

/-- The header bytes of a WIRE word: its own bytes, then zeros up to the longest header (12 bytes). -/
def tableWireBytes (nbits w : Nat) : List Byte :=
  tableBytes (nbits / 8) w ++ List.replicate (Config.hdrWindow - nbits / 8) 0

/-- The instruction the decoder reads from a word of the opcode table. The table's code spaces overlap: on 8 bits the
row with the most specific mask wins (ID rows 0xFF, then STATE rows 0xF, then ID_UNKNOWN 0), the step's selector STATE
coming before ERR and CTRL, whose words it shares (log entry 13). -/
def decodeTableWord (nbits w : Nat) : Option Instr :=
  if nbits ≤ 8 then
    let b := BitVec.ofNat 8 w
    match decodeId b with
    | .idUnknown _ =>
      match decodeState (b.setWidth 4) with
      | .ok i => some i
      | .error _ => some (.idUnknown b)
    | i => some i
  else if nbits ≤ 16 then
    if byteOf w 1 = Config.sync then (decodeWire (tableWireBytes 16 w)).toOption.map (·.1)
    else (decodeState (BitVec.ofNat 4 w)).toOption
  else if nbits ≤ 32 then (decodeCandidate (tableBytes 4 w)).toOption.map (·.1)
  else (decodeWire (tableWireBytes nbits w)).toOption.map (·.1)

end Sys2Proof
end

