-- ==== Sys2Proof/Machine/State.lean ====
section
/-! DEFINITION. Everything the spec gives the block (spec/10_state.md section 1) as plain data, the model's own
fields beside it (log entries 1, 2, 6), why a step can stop, and the state after reset (R170). -/

namespace Sys2Proof.Machine

/-- A byte memory: the cells that hold a value, addresses strictly rising. An unlisted address holds NO value
(log entries 3 and 4), so no entry can equal what an unlisted address reads as. -/
abbrev Memory := List Host.Cell

/-- The canonical form of a memory. -/
abbrev Memory.wf (m : Memory) : Prop := m.Pairwise (fun x y => x.1 < y.1)

/-- The header window `hbuf[0..11]` (R11). -/
structure Window where
  b0 : Byte
  b1 : Byte
  b2 : Byte
  b3 : Byte
  b4 : Byte
  b5 : Byte
  b6 : Byte
  b7 : Byte
  b8 : Byte
  b9 : Byte
  b10 : Byte
  b11 : Byte
  deriving DecidableEq, Repr

/-- The kinds of diagnostic events (R158). -/
inductive LogKind where
  | hdrCksum | payloadCksum | unknownId | shortRead | resyncEof
  deriving DecidableEq, Repr

/-- The configuration registers of R21. -/
structure Cfg where
  /-- `cfg.from`, latched and used by nothing (R112) -/
  fromArg : U32
  /-- `cfg.to`, the record-count bound; 0 means none -/
  toArg : U32
  /-- `cfg.by`, latched and used by nothing (R112) -/
  byArg : U32
  ignoreChecksums : Bool
  /-- `cfg.debug_level`, two's complement, used by nothing (R162) -/
  debugLevel : U32
  streamLen : U64
  streamPresent : Bool
  deriving DecidableEq, Repr

/-- The registers of the register map (R22), a 64-bit quantity as its two halves. -/
inductive Reg where
  | ctrl | status | cfg | debugLevel | fromArg | toArg | byArg
  | streamLenLo | streamLenHi | cksumFailures | cksumCalc | countLo | countHi
  | cursorLo | cursorHi | errOffsetLo | errOffsetHi | lastFamily | pbufCap
  | idxCapLo | idxCapHi | hdrStartLo | hdrStartHi | hdr0 | hdr1 | hdr2 | dataSize
  | payloadStartLo | payloadStartHi
  deriving DecidableEq, Repr

/-- What the host does between two block steps (R52; log entry 2). -/
inductive HostAccess where
  /-- nothing: the block takes its step -/
  | pass
  /-- write of a 32-bit value to the register at a byte offset from the block's base (R22) -/
  | writeReg (offset : Nat) (value : U32)
  /-- read of the register at a byte offset (R22) -/
  | readReg (offset : Nat)
  /-- read of one byte of the register space (R47) -/
  | readRegByte (offset : Nat)
  /-- write of one byte of the stream space (R52 step 1) -/
  | writeStream (addr : U64) (value : Byte)
  /-- read of one byte of the stream space (R52 step 1) -/
  | readStream (addr : U64)
  /-- read of one byte of the index memory (R43, R144) -/
  | readIdx (addr : Nat)
  deriving DecidableEq, Repr

/-- The state of the machine. -/
structure State where
  /-- the open parameters of R6; the model's own field, no step changes it (log entry 1) -/
  params : Config.Params
  /-- the host's accesses still to come, the next one first; the model's own field (log entry 2) -/
  host : List HostAccess
  /-- what the latest host read returned; the model's own field (log entry 2) -/
  hostData : U32
  state : ScanState
  cursor : U64
  hdrStart : U64
  payloadStart : U64
  hbuf : Window
  h : Header
  lastFamily : Byte
  checksumFailures : U32
  earlyEof : Bool
  used12 : Bool
  count : U64
  idxCap : U64
  /-- the index memory `IDX`, entry `i` at the 16 bytes from `16·i` (R43, R44) -/
  idx : Memory
  /-- the payload last read (R146, log entry 5) -/
  pbuf : List Byte
  pbufCap : U32
  calcHdrCksum : U16
  calcPayCksum : U16
  /-- the checksum engine's latest result; the model's own field (log entry 6) -/
  cksumOut : U16
  errCode : ErrCode
  errOffset : U64
  /-- the diagnostic log, the oldest event first (R158) -/
  log : List (LogKind × U64)
  cfg : Cfg
  /-- the stream space `S` (R40) -/
  stream : Memory
  deriving DecidableEq, Repr

/-- Why the machine stops with a fault. The spec's own fatal conditions are next states (R151), not faults. -/
inductive Fault where
  /-- raised by the operations that read the stream, at an offset below `STREAM_LEN` where the host placed no byte: a
  `STREAM_LEN` that does not match the stream present is outside the model (R175, U11). Safe. -/
  | streamByteAbsent
  /-- raised by VALIDATE_PAYLOAD when the payload buffer holds fewer than `data_size` bytes: no rule reads `pbuf`
  before writing it (R23, U7), so no scan gets here. Safe. -/
  | payloadByteAbsent
  /-- raised by IDX_APPEND and the ID rows when `count < INDEX_MAX` does not hold: R142's precondition, which EMIT
  tests first (R143). Safe. -/
  | indexAppendPrecondition
  deriving DecidableEq, Repr

/-- Why the machine refuses a move. -/
inductive Refusal where
  /-- raised by exec for an instruction that has no meaning yet. Safe. -/
  | notModelled (mnemonic : String)
  /-- raised by a host access to the stream space or the index memory while the block is busy: outside the contract
  (R52 step 3, R180, R182, U10). Safe. -/
  | hostAccessWhileBusy
  /-- raised by a host read of an index byte at or beyond `16·count`, whose contents are unspecified (R144, U7). Safe. -/
  | indexByteUnspecified
  /-- raised by a host read of a stream byte the host never placed, whose contents are unspecified (R23, U7). Safe. -/
  | streamByteUnspecified
  deriving DecidableEq, Repr

/-- The outcome of a step or of an instruction's meaning. -/
abbrev Out := Host.Outcome State Fault Refusal

/-- A window of twelve zero registers. -/
def Window.zero : Window := ⟨0, 0, 0, 0, 0, 0, 0, 0, 0, 0, 0, 0⟩

/-- A header record with every field 0. -/
def headerZero : Header :=
  { sync := 0, headerSize := 0, id := 0, family := 0, dataSize := 0, dataChecksum := 0, headerChecksum := 0 }

/-- The configuration registers after reset (R170). -/
def Cfg.reset : Cfg :=
  { fromArg := 0, toArg := 0, byArg := 0, ignoreChecksums := false, debugLevel := 0, streamLen := 0,
    streamPresent := false }

/-- The state hardware reset leaves in a block with these parameters (R170). The contents of the three memories are
unspecified there: nothing is listed (log entries 3, 4, 5). -/
def State.resetWith (p : Config.Params) : State :=
  { params := p, host := [], hostData := 0, state := .idle, cursor := 0, hdrStart := 0, payloadStart := 0,
    hbuf := Window.zero, h := headerZero, lastFamily := Config.familyNominal, checksumFailures := 0,
    earlyEof := false, used12 := false, count := 0, idxCap := p.indexCap0, idx := [], pbuf := [], pbufCap := 0,
    calcHdrCksum := 0, calcPayCksum := 0, cksumOut := 0, errCode := .none, errOffset := 0, log := [],
    cfg := Cfg.reset, stream := [] }

/-- The machine right after reset (R170), with the parameters R6 gives "where a number is needed" (log entry 1). -/
def State.reset : State := State.resetWith Config.Params.spec

end Sys2Proof.Machine
end

