-- ==== Sys2Proof/Machine/Ops.lean ====
section
/-! DEFINITION. The named operations over memories and registers: byte memories, the entry into FATAL (spec/60_exceptions.md
R151) and the one way a scan begins again (R153, R111), the early-EOF exit (R156), the log (R158), the header window
(R92), the index and payload buffer controllers (spec/44_buffers.md). -/

namespace Sys2Proof.Machine

/-! ## Byte memories -/

/-- The byte at an address, when it has a value. -/
def Memory.read : Memory → Nat → Option Byte
  | [], _ => none
  | (k, v) :: m, a => if k = a then some v else Memory.read m a

/-- Write of one byte; the cells stay in rising order of address. -/
def Memory.write : Memory → Nat → Byte → Memory
  | [], a, v => [(a, v)]
  | (k, w) :: m, a, v =>
    if a < k then (a, v) :: (k, w) :: m
    else if a = k then (a, v) :: m
    else (k, w) :: Memory.write m a v

/-- Write of consecutive bytes from an address, the first at the lowest. -/
def Memory.writeBytes : Memory → Nat → List Byte → Memory
  | m, _, [] => m
  | m, a, b :: bs => Memory.writeBytes (m.write a b) (a + 1) bs

/-- The `n` bytes from an address (`MemRead`), when all of them have a value. -/
def Memory.readSpan (m : Memory) : Nat → Nat → Option (List Byte)
  | _, 0 => some []
  | a, n + 1 =>
    match m.read a, Memory.readSpan m (a + 1) n with
    | some b, some bs => some (b :: bs)
    | _, _ => none

/-! ## Registers -/

/-- `STREAM_LEN`, the length `L` of the stream (R21). -/
def State.len (s : State) : Nat := s.cfg.streamLen.toNat

/-- `L - cursor`, the bytes from the cursor to the end of the stream. -/
def State.rem (s : State) : Nat := s.len - s.cursor.toNat

/-- A register of 64 bits takes a natural number that fits it (spec/00_scope.md section 5). -/
def u64 (n : Nat) : U64 := BitVec.ofNat 64 n

/-- `log(kind, off)` (R158). -/
def State.logEvent (s : State) (kind : LogKind) (off : U64) : State :=
  { s with log := s.log ++ [(kind, off)] }

/-- `raise Fatal(code, off)`: the entry into FATAL, and nothing else changes (R151). -/
def State.raiseFatal (s : State) (code : ErrCode) (off : U64) : State :=
  { s with errCode := code, errOffset := off, state := .fatal }

/-- What START initialises before it looks at the stream (R111): the one way out of FATAL that is no reset (R153). The
configuration, the stream, the parameters and the host's side stay; the index and the payload buffer hold nothing, and
the engine's output is 0 (log entries 4, 5, 6). -/
def State.beginScan (s : State) : State :=
  { s with
    cursor := 0, hdrStart := 0, payloadStart := 0, hbuf := Window.zero, h := headerZero,
    lastFamily := Config.familyNominal, checksumFailures := 0, earlyEof := false, used12 := false,
    count := 0, idxCap := s.params.indexCap0, idx := [], pbuf := [], pbufCap := 0,
    calcHdrCksum := 0, calcPayCksum := 0, cksumOut := 0, errCode := .none, errOffset := 0, log := [] }

/-- What reset leaves of a running machine (R170, R171): the implementation's parameters, and the host's own side,
which is no part of the block (log entry 19). -/
def State.resetBlock (s : State) : State :=
  { State.resetWith s.params with host := s.host, hostData := s.hostData }

/-- The early-EOF exit (R156): the event, `early_eof`, the cursor at the end of the stream, DONE. -/
def State.endEarly (s : State) (kind : LogKind) (off : U64) : State :=
  { s.logEvent kind off with earlyEof := true, cursor := s.cfg.streamLen, state := .done }

/-! ## The header window (R11, R92) -/

/-- The window of the bytes that are there, zeros beyond them. -/
def Window.ofBytes (bs : List Byte) : Window :=
  ⟨bs.getD 0 0, bs.getD 1 0, bs.getD 2 0, bs.getD 3 0, bs.getD 4 0, bs.getD 5 0, bs.getD 6 0, bs.getD 7 0,
   bs.getD 8 0, bs.getD 9 0, bs.getD 10 0, bs.getD 11 0⟩

/-- The window's registers in order. -/
def Window.toList (w : Window) : List Byte :=
  [w.b0, w.b1, w.b2, w.b3, w.b4, w.b5, w.b6, w.b7, w.b8, w.b9, w.b10, w.b11]

/-- The first two assignments of R92: `hdr_start <- cursor` and the window. -/
def State.loadWindow (s : State) (bs : List Byte) : State :=
  { s with hdrStart := s.cursor, hbuf := Window.ofBytes bs }

/-- The last assignments of R92, once the header is complete: the fields (R93, R94), `used_12_byte_header` (R94),
`last_family` (R95), the cursor, VALIDATE_HEADER. -/
def State.acceptHeader (s : State) (h : Header) : State :=
  { s with
    h := h, used12 := s.used12 || h.headerSize == Config.hs12, lastFamily := h.family,
    cursor := u64 (s.hdrStart.toNat + h.headerSize.toNat), state := .validateHeader }

/-- The rest of R92 from check 4 on, when the layout is known: `rem` bytes are left from the header's first byte. -/
def State.finishHeader (s : State) (rem : Nat) (h : Header) : State :=
  if rem < h.headerSize.toNat then s.endEarly .shortRead s.hdrStart else s.acceptHeader h

/-! ## The buffer controllers (spec/44_buffers.md) -/

/-- `IDX_GROW` (R141). -/
def State.idxGrow (s : State) : State :=
  { s with
    idxCap := if s.count = s.idxCap then u64 (min s.params.indexMax.toNat (s.idxCap.toNat * Config.idxFactor))
      else s.idxCap }

/-- The 16 bytes of an index entry (R44, R142). -/
def entryBytes (off : U64) (len : U32) (id : Byte) (known : Bool) : List Byte :=
  bytes64 off ++ bytes32 len ++ [id, if known then 1 else 0, 0, 0]

/-- `IDX_APPEND` (R142), its precondition being the caller's to test. -/
def State.idxAppend (s : State) (off : U64) (len : U32) (id : Byte) (known : Bool) : State :=
  { s.idxGrow with
    idx := s.idx.writeBytes (16 * s.count.toNat) (entryBytes off len id known), count := u64 (s.count.toNat + 1) }

/-- `PBUF_GROW` (R145). -/
def State.growPbuf (s : State) : State :=
  { s with pbufCap := if s.pbufCap.toNat < s.h.dataSize.toNat then s.h.dataSize else s.pbufCap }

end Sys2Proof.Machine
end

