-- ==== Sys2Proof/Machine/Operands.lean ====
section
/-! DEFINITION. The operand forms: the bytes of the stream each operation reads (spec/20_memory.md R49), the spans the
checksums cover (spec/30_encoding.md R65), the offset an index entry takes (spec/43_scanner.md R120), and the two
searches over the stream (R114, R101). -/

namespace Sys2Proof.Machine

/-- Up to `n` bytes from offset `p`, fewer when fewer remain below `L`; none when one of them is absent (log entry 3). -/
def State.peek (s : State) (p n : Nat) : Option (List Byte) := s.stream.readSpan p (min n (s.len - p))

/-- The bytes of the header window at the cursor (R92). -/
def State.windowBytes (s : State) : Option (List Byte) := s.peek s.cursor.toNat Config.hdrWindow

/-- The payload's bytes at the cursor, `data_size` of them (R117). -/
def State.payloadBytes (s : State) : Option (List Byte) := s.stream.readSpan s.cursor.toNat s.h.dataSize.toNat

/-- The span of the header checksum, `hbuf[0 .. hs - 2)` (R65, R116). -/
def State.headerSpan (s : State) : List Byte := s.hbuf.toList.take (s.h.headerSize.toNat - 2)

/-- The span of the payload checksum, `pbuf[0 .. data_size)` (R65, R118); none when fewer bytes were ever read into the
buffer (log entry 5). -/
def State.payloadSpan (s : State) : Option (List Byte) :=
  if s.h.dataSize.toNat ≤ s.pbuf.length then some (s.pbuf.take s.h.dataSize.toNat) else none

/-- The offset an index entry takes (R120): `OFFSET_REF` names which. -/
def State.entryOffset (s : State) : U64 :=
  match s.params.offsetRef with
  | .payload => s.payloadStart
  | .header => s.hdrStart

/-- The end of a search over the stream. -/
inductive Search where
  /-- it stopped at this offset -/
  | found (p : Nat)
  /-- it reached the end of the stream -/
  | endOfStream
  /-- it met an offset below `L` where the host placed no byte (log entry 3) -/
  | absent
  deriving DecidableEq, Repr

/-- The initial sync search over the `n` offsets from `p` (R114). -/
def findSync (m : Memory) : Nat → Nat → Search
  | 0, _ => .endOfStream
  | n + 1, p =>
    match m.read p with
    | none => .absent
    | some b => if b = Config.sync then .found p else findSync m n (p + 1)

/-- The family byte of the plausible header at the front of the bytes, if there is one (R68). -/
def candidateFamily (bs : List Byte) : Option Byte :=
  match decodeCandidate bs with
  | .ok (.resyncCandidate10 _ family, _) => some family
  | .ok (.resyncCandidate12 _ family, _) => some family
  | _ => none

/-- The resynchronizer's search over the `n` offsets from `p` up to the end of the stream (R101): at each, the byte
and up to three bytes more are peeked, so that a candidate whose family byte lies beyond the end is rejected. -/
def findCandidate (m : Memory) (lastFamily : Byte) : Nat → Nat → Search
  | 0, _ => .endOfStream
  | n + 1, p =>
    match m.read p with
    | none => .absent
    | some b =>
      if b = Config.sync then
        match m.readSpan p (min 4 (n + 1)) with
        | none => .absent
        | some bs =>
          if candidateFamily bs = some lastFamily then .found p else findCandidate m lastFamily n (p + 1)
      else findCandidate m lastFamily n (p + 1)

end Sys2Proof.Machine
end

