-- ==== Sys2Proof/Machine/Flags.lean ====
section
/-! DEFINITION. The flags and statistics: the saturating failure counter and its cap (spec/10_state.md R15, R16), the two
mismatch tests (spec/43_scanner.md R116, R118, R122), the `known` bit (spec/30_encoding.md R67), the stop test of EMIT (R120),
the codes of R13, R150, R158 and the word STATUS (R22). -/

namespace Sys2Proof.Machine

/-- `sat_32(v + 1)` (R16). -/
def satInc32 (v : U32) : U32 := BitVec.ofNat 32 (min (v.toNat + 1) 4294967295)

/-- One more checksum failure (R16). -/
def State.countFailure (s : State) : State := { s with checksumFailures := satInc32 s.checksumFailures }

/-- A computed checksum mismatches the stated one: never with `ignore_checksums` (R116, R118, R122). -/
def State.mismatch (s : State) (computed stated : U16) : Bool :=
  !s.cfg.ignoreChecksums && computed != stated

/-- The cap test of R118, after the increment. -/
def State.overCap (s : State) : Bool := decide (Config.failCap < s.checksumFailures.toNat)

/-- `known(id)` (R67). -/
def known (id : Byte) : Bool := Config.knownIds.contains id

/-- The record-count bound is reached (R120); `to = 0` means there is none. -/
def State.boundReached (s : State) : Bool :=
  s.cfg.toArg != 0 && s.count.toNat == s.cfg.toArg.toNat

/-- The stop test that ends EMIT (R120). -/
def State.stopOrGoOn (s : State) : State :=
  { s with state := if s.boundReached || s.cursor == s.cfg.streamLen then .done else .readHeader }

/-- A scan is running, `STATE ∈ 1..7` (R22). -/
def State.busy (s : State) : Bool :=
  match s.state with
  | .idle | .done | .fatal => false
  | .seekingSync | .readHeader | .validateHeader | .readPayload | .validatePayload | .emit | .resync => true

/-- The output `done` (R159). -/
def State.doneOut (s : State) : Bool := s.state == .done

/-- The output `fatal` (R159). -/
def State.fatalOut (s : State) : Bool := s.state == .fatal

/-- The 4-bit code of a scanner state (R13). -/
def stateCode : ScanState → Code4
  | .idle => 0
  | .seekingSync => 1
  | .readHeader => 2
  | .validateHeader => 3
  | .readPayload => 4
  | .validatePayload => 5
  | .emit => 6
  | .resync => 7
  | .done => 8
  | .fatal => 9

/-- The 4-bit code of a fatal condition (R150). -/
def errorCode : ErrCode → Code4
  | .none => 0
  | .cannotOpen => 1
  | .noSync => 2
  | .badSync => 3
  | .hdrSize => 4
  | .cksumCap => 5
  | .indexFull => 6

/-- The code of a diagnostic event (R158). -/
def logCode : LogKind → Nat
  | .hdrCksum => 1
  | .payloadCksum => 2
  | .unknownId => 3
  | .shortRead => 4
  | .resyncEof => 5

/-- A one-bit field at a bit position. -/
def bitAt (b : Bool) (k : Nat) : Nat := if b then 2 ^ k else 0

/-- The register `STATUS` (R22). -/
def State.status (s : State) : U32 :=
  BitVec.ofNat 32 ((stateCode s.state).toNat + bitAt s.busy 4 + bitAt s.doneOut 5 + bitAt s.fatalOut 6
    + bitAt s.earlyEof 8 + bitAt s.used12 9 + 4096 * (errorCode s.errCode).toNat)

end Sys2Proof.Machine
end

