-- ==== Sys2Proof/Machine/HostPort.lean ====
section
/-! DEFINITION. The host's side: the register map (spec/10_state.md R22), the index memory as the host reads it
(spec/44_buffers.md R144), the stream space as the host writes it (spec/20_memory.md R52), and the result of a scan
(R19, spec/60_exceptions.md R152). -/

namespace Sys2Proof.Machine

/-! ## The register map (R22) -/

/-- The register at a byte offset from the block's base; none at an offset the map does not list (log entry 17). -/
def regAt (offset : Nat) : Option Reg :=
  match offset with
  | 0x00 => some .ctrl
  | 0x04 => some .status
  | 0x08 => some .cfg
  | 0x0C => some .debugLevel
  | 0x10 => some .fromArg
  | 0x14 => some .toArg
  | 0x18 => some .byArg
  | 0x20 => some .streamLenLo
  | 0x24 => some .streamLenHi
  | 0x28 => some .cksumFailures
  | 0x2C => some .cksumCalc
  | 0x30 => some .countLo
  | 0x34 => some .countHi
  | 0x38 => some .cursorLo
  | 0x3C => some .cursorHi
  | 0x40 => some .errOffsetLo
  | 0x44 => some .errOffsetHi
  | 0x48 => some .lastFamily
  | 0x4C => some .pbufCap
  | 0x50 => some .idxCapLo
  | 0x54 => some .idxCapHi
  | 0x58 => some .hdrStartLo
  | 0x5C => some .hdrStartHi
  | 0x60 => some .hdr0
  | 0x64 => some .hdr1
  | 0x68 => some .hdr2
  | 0x6C => some .dataSize
  | 0x70 => some .payloadStartLo
  | 0x74 => some .payloadStartHi
  | _ => none

/-- `_LO`, bits 31:0 of a 64-bit quantity. -/
def lo32 (v : U64) : U32 := BitVec.ofNat 32 v.toNat

/-- `_HI`, bits 63:32 of a 64-bit quantity. -/
def hi32 (v : U64) : U32 := BitVec.ofNat 32 (v.toNat / 4294967296)

/-- The register `CFG` (R22). -/
def Cfg.word (c : Cfg) : U32 := BitVec.ofNat 32 (bitAt c.ignoreChecksums 0 + bitAt c.streamPresent 1)

/-- What a read of a register returns; reads have no side effects (R22). -/
def State.readReg (s : State) : Reg → U32
  | .ctrl => 0
  | .status => s.status
  | .cfg => s.cfg.word
  | .debugLevel => s.cfg.debugLevel
  | .fromArg => s.cfg.fromArg
  | .toArg => s.cfg.toArg
  | .byArg => s.cfg.byArg
  | .streamLenLo => lo32 s.cfg.streamLen
  | .streamLenHi => hi32 s.cfg.streamLen
  | .cksumFailures => s.checksumFailures
  | .cksumCalc => BitVec.ofNat 32 (s.calcHdrCksum.toNat + 65536 * s.calcPayCksum.toNat)
  | .countLo => lo32 s.count
  | .countHi => hi32 s.count
  | .cursorLo => lo32 s.cursor
  | .cursorHi => hi32 s.cursor
  | .errOffsetLo => lo32 s.errOffset
  | .errOffsetHi => hi32 s.errOffset
  | .lastFamily => BitVec.ofNat 32 s.lastFamily.toNat
  | .pbufCap => s.pbufCap
  | .idxCapLo => lo32 s.idxCap
  | .idxCapHi => hi32 s.idxCap
  | .hdrStartLo => lo32 s.hdrStart
  | .hdrStartHi => hi32 s.hdrStart
  | .hdr0 => le32 s.hbuf.b0 s.hbuf.b1 s.hbuf.b2 s.hbuf.b3
  | .hdr1 => le32 s.hbuf.b4 s.hbuf.b5 s.hbuf.b6 s.hbuf.b7
  | .hdr2 => le32 s.hbuf.b8 s.hbuf.b9 s.hbuf.b10 s.hbuf.b11
  | .dataSize => s.h.dataSize
  | .payloadStartLo => lo32 s.payloadStart
  | .payloadStartHi => hi32 s.payloadStart

/-- What a 32-bit read at a byte offset returns; an offset the map does not list reads as 0 (log entry 17). -/
def State.busRead (s : State) (offset : Nat) : U32 :=
  match regAt offset with
  | some r => s.readReg r
  | none => 0

/-- One byte of the register space, little-endian (R47). -/
def State.busReadByte (s : State) (offset : Nat) : Byte :=
  byteOf (s.busRead (offset / 4 * 4)).toNat (offset % 4)

/-- The configuration after a write to a register; a read-only register, and `CTRL`, leave it (R22). -/
def Cfg.write (c : Cfg) (r : Reg) (v : U32) : Cfg :=
  match r with
  | .cfg => { c with ignoreChecksums := v.getLsbD 0, streamPresent := v.getLsbD 1 }
  | .debugLevel => { c with debugLevel := v }
  | .fromArg => { c with fromArg := v }
  | .toArg => { c with toArg := v }
  | .byArg => { c with byArg := v }
  | .streamLenLo => { c with streamLen := lohi v (hi32 c.streamLen) }
  | .streamLenHi => { c with streamLen := lohi (lo32 c.streamLen) v }
  | .ctrl | .status | .cksumFailures | .cksumCalc | .countLo | .countHi | .cursorLo | .cursorHi
  | .errOffsetLo | .errOffsetHi | .lastFamily | .pbufCap | .idxCapLo | .idxCapHi | .hdrStartLo | .hdrStartHi
  | .hdr0 | .hdr1 | .hdr2 | .dataSize | .payloadStartLo | .payloadStartHi => c

/-- A host write to a register other than `CTRL`: RW-idle registers take it when the block is not busy (R22, R181). -/
def State.busWrite (s : State) (offset : Nat) (v : U32) : State :=
  match regAt offset with
  | some r => if s.busy then s else { s with cfg := s.cfg.write r v }
  | none => s

/-- The command a host write gives the block: only a write to `CTRL` with bit 0 or bit 1 set (R22, R69). -/
def commandOf (offset : Nat) (v : U32) : Option Instr :=
  if regAt offset = some .ctrl then (decodeCtrl v).toOption else none

/-! ## The memories as the host sees them -/

/-- A host write to the stream space: allowed while the block is not busy (R52, R180). R40's space ends at `L - 1` and the
spec does not say what the host's port does past it: DESIGN CHOICE, the byte is stored at any address (log entry 23). -/
def State.hostWriteStream (s : State) (addr : U64) (v : Byte) : Out :=
  if s.busy then .refused .hostAccessWhileBusy else .next { s with stream := s.stream.write addr.toNat v }

/-- A host read of a stream byte: allowed while the block is not busy, where a byte was placed (R52, U7). DESIGN CHOICE:
there is no test against `L`, so a byte placed at or beyond it is read back (log entry 23). -/
def State.hostReadStream (s : State) (addr : U64) : Out :=
  if s.busy then .refused .hostAccessWhileBusy
  else
    match s.stream.read addr.toNat with
    | some b => .next { s with hostData := BitVec.ofNat 32 b.toNat }
    | none => .refused .streamByteUnspecified

/-- A host read of an index byte: allowed while the block is not busy, at addresses below `16·count` (R144, R182). -/
def State.hostReadIdx (s : State) (addr : Nat) : Out :=
  if s.busy then .refused .hostAccessWhileBusy
  else if addr < 16 * s.count.toNat then
    match s.idx.read addr with
    | some b => .next { s with hostData := BitVec.ofNat 32 b.toNat }
    | none => .refused .indexByteUnspecified
  else .refused .indexByteUnspecified

/-- An index entry as the host reads it (R18, R44). -/
structure Entry where
  offset : U64
  length : U32
  id : Byte
  known : Bool
  deriving DecidableEq, Repr

/-- The entry whose 16 bytes these are (R44). -/
def entryOf : List Byte → Option Entry
  | [o0, o1, o2, o3, o4, o5, o6, o7, n0, n1, n2, n3, id, flags, _, _] =>
    some { offset := lohi (le32 o0 o1 o2 o3) (le32 o4 o5 o6 o7), length := le32 n0 n1 n2 n3, id := id,
           known := flags.getLsbD 0 }
  | _ => none

/-- Entry `i` of the index (R43). -/
def State.entryAt (s : State) (i : Nat) : Option Entry := (s.idx.readSpan (16 * i) 16).bind entryOf

/-- The result of a scan (R19, R152): `ScanResult` or an error, never both. The `known` bit is no part of it (R18). -/
inductive Result where
  | ok (index : List (U64 × U32 × Byte)) (checksumFailures : U32) (earlyEof used12ByteHeader : Bool)
  | error (code : ErrCode) (offset : U64)
  deriving DecidableEq, Repr

/-- The first `n` entries, projected to `(offset, length, id)` (R144). -/
def State.entries (s : State) : Nat → List (U64 × U32 × Byte)
  | 0 => []
  | n + 1 => s.entries n ++ ((s.entryAt n).map (fun e => (e.offset, e.length, e.id))).toList

/-- The result the host finds in a terminal state (R19, R121, R152, R182). -/
def State.result (s : State) : Option Result :=
  match s.state with
  | .done => some (.ok (s.entries s.count.toNat) s.checksumFailures s.earlyEof s.used12)
  | .fatal => some (.error s.errCode s.errOffset)
  | .idle | .seekingSync | .readHeader | .validateHeader | .readPayload | .validatePayload | .emit | .resync => none

end Sys2Proof.Machine
end

