-- ==== Sys2Proof/Machine/Fatal.lean ====
section
/-! DEFINITION. The ERR rows: each fatal condition's entry into FATAL, with its code and the offset the table of
spec/60_exceptions.md R150 gives it (R151; log entry 11). -/

namespace Sys2Proof.Machine

/-- E_OPEN (R150): "`STREAM_PRESENT = 0` at START"; the offset is 0. -/
def execEOpen (s : State) : Out := .next (s.raiseFatal .cannotOpen 0)

/-- E_NO_SYNC (R150, R114): the offset is `L`. -/
def execENoSync (s : State) : Out := .next (s.raiseFatal .noSync s.cfg.streamLen)

/-- E_BAD_SYNC (R150, R92): the offset is `hdr_start`. -/
def execEBadSync (s : State) : Out := .next (s.raiseFatal .badSync s.hdrStart)

/-- E_HDR_SIZE (R150, R92): the offset is `hdr_start`. -/
def execEHdrSize (s : State) : Out := .next (s.raiseFatal .hdrSize s.hdrStart)

/-- E_CKSUM_CAP (R150, R118): the offset is `hdr_start`. -/
def execECksumCap (s : State) : Out := .next (s.raiseFatal .cksumCap s.hdrStart)

/-- E_INDEX_FULL (R150, R143): the offset is `hdr_start`. -/
def execEIndexFull (s : State) : Out := .next (s.raiseFatal .indexFull s.hdrStart)

end Sys2Proof.Machine
end

