-- ==== Sys2Proof/Machine/Control.lean ====
section
/-! DEFINITION. The CTRL rows: the host's commands START (spec/43_scanner.md R111) and SOFT_RESET
(spec/70_reset_and_hazards.md R171). -/

namespace Sys2Proof.Machine

/-- START (R111): ignored while busy; otherwise a fresh scan, or E_OPEN when there is no stream. -/
def execStart (s : State) : Out :=
  if s.busy then .next s
  else if s.cfg.streamPresent then .next { s.beginScan with state := .seekingSync }
  else execEOpen s.beginScan

/-- SOFT_RESET (R171): hardware reset, in any state. -/
def execSoftReset (s : State) : Out := .next s.resetBlock

end Sys2Proof.Machine
end

