-- ==== Sys2Proof/Machine/Engine.lean ====
section
/-! DEFINITION. The FUNC rows: the checksum engine (spec/40_checksum.md R80), the index controller's append
(spec/44_buffers.md R142) and the payload buffer's growth (R145). -/

namespace Sys2Proof.Machine

/-- The accumulator's run over a span, two bytes at a time, an odd trailing byte as the high byte (R80). -/
def cksumFrom (acc : U16) : List Byte → U16
  | [] => acc
  | [b] => acc + BitVec.ofNat 16 (256 * b.toNat)
  | b0 :: b1 :: rest => cksumFrom (acc + le16 b0 b1) rest

/-- `cksum(B)` (R80). -/
def cksum (span : List Byte) : U16 := cksumFrom Config.seed span

/-- One invocation of the engine: its result appears at its output; no register of the block changes (R80, log
entry 6). -/
def State.runCksum (s : State) (span : List Byte) : State := { s with cksumOut := cksum span }

/-- CKSUM (R80). -/
def execCksum (span : List Byte) (s : State) : Out := .next (s.runCksum span)

/-- IDX_APPEND (R142), which includes IDX_GROW (R141); its precondition is `count < INDEX_MAX` (R143, log entry 18). -/
def execIdxAppend (off : U64) (len : U32) (id : Byte) (known : Bool) (s : State) : Out :=
  if s.count.toNat < s.params.indexMax.toNat then .next (s.idxAppend off len id known)
  else .fault .indexAppendPrecondition

/-- PBUF_GROW (R145). -/
def execPbufGrow (s : State) : Out := .next s.growPbuf

end Sys2Proof.Machine
end

