-- ==== Sys2Proof/Machine/Ident.lean ====
section
/-! DEFINITION. The ID rows (spec/30_encoding.md R67): what the classification of a record's identifier does at EMIT
(spec/43_scanner.md R120): the entry with its `known` bit, and for an unknown identifier the warning (log entry 8). -/

namespace Sys2Proof.Machine

/-- The entry of the record in hand, under an identifier and its `known` bit (R120). -/
def State.appendRecord (s : State) (id : Byte) (known : Bool) : Out :=
  execIdxAppend s.entryOffset s.h.dataSize id known s

/-- The entry of a record with a known identifier: `known = 1`, no warning (R67, R120). -/
def State.indexKnown (s : State) (id : Byte) : Out := s.appendRecord id true

/-- The entry of a record with an unknown identifier: `known = 0`, and `W_UNKNOWN_ID` is logged (R67, R120, R155). -/
def State.indexUnknown (s : State) (id : Byte) : Out :=
  match s.appendRecord id false with
  | .next t => .next (t.logEvent .unknownId t.hdrStart)
  | .fault r => .fault r
  | .refused r => .refused r

/-- The classification of an identifier (R67, R120). -/
def State.classify (s : State) (id : Byte) : Out :=
  if known id then s.indexKnown id else s.indexUnknown id

/-- ID_21 -/
def execId21 (s : State) : Out := s.indexKnown 21
/-- ID_22 -/
def execId22 (s : State) : Out := s.indexKnown 22
/-- ID_23 -/
def execId23 (s : State) : Out := s.indexKnown 23
/-- ID_24 -/
def execId24 (s : State) : Out := s.indexKnown 24
/-- ID_26 -/
def execId26 (s : State) : Out := s.indexKnown 26
/-- ID_27 -/
def execId27 (s : State) : Out := s.indexKnown 27
/-- ID_28 -/
def execId28 (s : State) : Out := s.indexKnown 28
/-- ID_29 -/
def execId29 (s : State) : Out := s.indexKnown 29
/-- ID_30 -/
def execId30 (s : State) : Out := s.indexKnown 30
/-- ID_31 -/
def execId31 (s : State) : Out := s.indexKnown 31
/-- ID_160 -/
def execId160 (s : State) : Out := s.indexKnown 160
/-- ID_UNKNOWN -/
def execIdUnknown (id : Byte) (s : State) : Out := s.indexUnknown id

end Sys2Proof.Machine
end

