-- ==== Sys2Proof/Machine/Wire.lean ====
section
/-! DEFINITION. The WIRE and WIRE4 rows: the reading of a header whose layout and fields are these (spec/41_header_reader.md
R92 to R95; log entry 9), and the resynchronizer at a plausible header (spec/42_resync.md R101; log entry 10). -/

namespace Sys2Proof.Machine

/-- READ_HEADER of a header with a known layout and known fields at the cursor: the window, check 4, and the decoding
(R92 to R95). -/
def State.readRecord (s : State) (h : Header) : Out :=
  match s.windowBytes with
  | none => .fault .streamByteAbsent
  | some bs => .next ((s.loadWindow bs).finishHeader s.rem h)

/-- REC10 (R61, R93). -/
def execRec10 (id family : Byte) (dataSize dataChecksum headerChecksum : U16) (s : State) : Out :=
  s.readRecord (Header.h10 id family dataSize dataChecksum headerChecksum)

/-- REC12 (R62, R94). -/
def execRec12 (id family : Byte) (dataSize : U32) (dataChecksum headerChecksum : U16) (s : State) : Out :=
  s.readRecord (Header.h12 id family dataSize dataChecksum headerChecksum)

/-- A search that ended: READ_HEADER at the candidate found, or the early-EOF exit at the end of the stream (R101). -/
def State.endSearch (s : State) : Search → Out
  | .found p => .next { s with cursor := u64 p, state := .readHeader }
  | .endOfStream => .next (s.endEarly .resyncEof s.cfg.streamLen)
  | .absent => .fault .streamByteAbsent

/-- `RESYNC_SEARCH` from offset `p` (R101). -/
def State.resyncFrom (s : State) (p : Nat) : Out :=
  s.endSearch (findCandidate s.stream s.lastFamily (s.len - p) p)

/-- The resynchronizer at a plausible header at the cursor: accepted when its family byte lies in the stream and is
`last_family`, otherwise the search goes on at the next byte (R101). -/
def State.tryCandidate (s : State) (family : Byte) : Out :=
  if s.cursor.toNat + 3 < s.len ∧ family = s.lastFamily then s.endSearch (.found s.cursor.toNat)
  else s.resyncFrom (s.cursor.toNat + 1)

/-- RESYNC_CANDIDATE_10 (R68, R101); the candidate's `id` is not looked at. -/
def execResyncCandidate10 (_id family : Byte) (s : State) : Out := s.tryCandidate family

/-- RESYNC_CANDIDATE_12 (R68, R101); the candidate's `id` is not looked at. -/
def execResyncCandidate12 (_id family : Byte) (s : State) : Out := s.tryCandidate family

end Sys2Proof.Machine
end

