-- ==== Sys2Proof/Machine/Scanner.lean ====
section
/-! DEFINITION. The STATE rows: the operation of each scanner state (spec/43_scanner.md R110 to R121). -/

namespace Sys2Proof.Machine

/-- IDLE: no operation, the block waits for START (R110, R111; log entry 12). -/
def execIdle (s : State) : Out := .next s

/-- SEEKING_SYNC, the initial sync search (R114). -/
def execSeekingSync (s : State) : Out :=
  match findSync s.stream s.rem s.cursor.toNat with
  | .found p => .next { s with cursor := u64 p, state := .readHeader }
  | .endOfStream => execENoSync { s with cursor := s.cfg.streamLen }
  | .absent => .fault .streamByteAbsent

/-- READ_HEADER is `HDR_PARSE` (R115, R92): the window, the four checks in order, the decoding. -/
def execReadHeader (s : State) : Out :=
  match s.windowBytes with
  | none => .fault .streamByteAbsent
  | some bs =>
    let t := s.loadWindow bs
    match parseHeader bs with
    | .error .badSync => execEBadSync t
    | .error .badSize => execEHdrSize t
    | .error .short => .next (t.endEarly .shortRead t.hdrStart)
    | .ok h => .next (t.acceptHeader h)

/-- VALIDATE_HEADER, the lenient header checksum (R116). -/
def execValidateHeader (s : State) : Out :=
  let t := s.runCksum s.headerSpan
  let t := { t with calcHdrCksum := t.cksumOut }
  let t := if t.mismatch t.calcHdrCksum t.h.headerChecksum then t.countFailure.logEvent .hdrCksum t.hdrStart else t
  .next { t with state := .readPayload }

/-- READ_PAYLOAD (R117): PBUF_GROW, then the payload or the early-EOF exit. -/
def execReadPayload (s : State) : Out :=
  let t := s.growPbuf
  if t.rem < t.h.dataSize.toNat then .next (t.endEarly .shortRead t.hdrStart)
  else
    match t.payloadBytes with
    | none => .fault .streamByteAbsent
    | some bs =>
      .next { t with
        payloadStart := t.cursor, pbuf := bs, cursor := u64 (t.cursor.toNat + t.h.dataSize.toNat),
        state := .validatePayload }

/-- VALIDATE_PAYLOAD (R118): the payload checksum, the count, the cap test, the branch. -/
def execValidatePayload (s : State) : Out :=
  match s.payloadSpan with
  | none => .fault .payloadByteAbsent
  | some span =>
    let t := s.runCksum span
    let t := { t with calcPayCksum := t.cksumOut }
    if t.mismatch t.calcPayCksum t.h.dataChecksum then
      let u := t.countFailure.logEvent .payloadCksum t.hdrStart
      if u.overCap then execECksumCap u else .next { u with state := .resync }
    else .next { t with state := .emit }

/-- EMIT (R120): the exhaustion test (R143), the classified entry, the stop test. -/
def execEmit (s : State) : Out :=
  if s.count = s.params.indexMax then execEIndexFull s
  else
    match s.classify s.h.id with
    | .next t => .next t.stopOrGoOn
    | .fault r => .fault r
    | .refused r => .refused r

/-- RESYNC is `RESYNC_SEARCH` from the cursor (R119, R101). -/
def execResync (s : State) : Out := s.resyncFrom s.cursor.toNat

/-- DONE is terminal: the block takes no step in it (R121; log entry 12). -/
def execDone (s : State) : Out := .next s

/-- FATAL is terminal: the block takes no step in it (R121; log entry 12). -/
def execFatal (s : State) : Out := .next s

end Sys2Proof.Machine
end

