-- ==== Sys2Proof/Machine/Dispatch.lean ====
section
/-! DEFINITION. The meaning of every instruction, one arm per constructor. -/

namespace Sys2Proof.Machine

def exec (i : Instr) (s : State) : Host.Outcome State Fault Refusal :=
  match i with
  | .rec10 id family n d h => Sys2Proof.Machine.execRec10 id family n d h s
  | .rec12 id family n d h => Sys2Proof.Machine.execRec12 id family n d h s
  | .resyncCandidate10 id family => Sys2Proof.Machine.execResyncCandidate10 id family s
  | .resyncCandidate12 id family => Sys2Proof.Machine.execResyncCandidate12 id family s
  | .id21 => Sys2Proof.Machine.execId21 s
  | .id22 => Sys2Proof.Machine.execId22 s
  | .id23 => Sys2Proof.Machine.execId23 s
  | .id24 => Sys2Proof.Machine.execId24 s
  | .id26 => Sys2Proof.Machine.execId26 s
  | .id27 => Sys2Proof.Machine.execId27 s
  | .id28 => Sys2Proof.Machine.execId28 s
  | .id29 => Sys2Proof.Machine.execId29 s
  | .id30 => Sys2Proof.Machine.execId30 s
  | .id31 => Sys2Proof.Machine.execId31 s
  | .id160 => Sys2Proof.Machine.execId160 s
  | .idUnknown id => Sys2Proof.Machine.execIdUnknown id s
  | .idle => Sys2Proof.Machine.execIdle s
  | .seekingSync => Sys2Proof.Machine.execSeekingSync s
  | .readHeader => Sys2Proof.Machine.execReadHeader s
  | .validateHeader => Sys2Proof.Machine.execValidateHeader s
  | .readPayload => Sys2Proof.Machine.execReadPayload s
  | .validatePayload => Sys2Proof.Machine.execValidatePayload s
  | .emit => Sys2Proof.Machine.execEmit s
  | .resync => Sys2Proof.Machine.execResync s
  | .done => Sys2Proof.Machine.execDone s
  | .fatal => Sys2Proof.Machine.execFatal s
  | .cksum span => Sys2Proof.Machine.execCksum span s
  | .idxAppend off len id known => Sys2Proof.Machine.execIdxAppend off len id known s
  | .pbufGrow => Sys2Proof.Machine.execPbufGrow s
  | .start => Sys2Proof.Machine.execStart s
  | .softReset => Sys2Proof.Machine.execSoftReset s
  | .eOpen => Sys2Proof.Machine.execEOpen s
  | .eNoSync => Sys2Proof.Machine.execENoSync s
  | .eBadSync => Sys2Proof.Machine.execEBadSync s
  | .eHdrSize => Sys2Proof.Machine.execEHdrSize s
  | .eCksumCap => Sys2Proof.Machine.execECksumCap s
  | .eIndexFull => Sys2Proof.Machine.execEIndexFull s

end Sys2Proof.Machine
end

