-- ==== Sys2Proof/Machine/Fetch.lean ====
section
/-! DEFINITION. What a step runs (spec/43_scanner.md R110, spec/20_memory.md R52; log entry 2): the host's next access when
it has one, otherwise the operation the state register selects. And how a table word is put where it is fetched
(log entries 13, 14). -/

namespace Sys2Proof.Machine

/-- The operation a scanner state selects (R110): what `decodeState` reads from the state's code. -/
def operationOf : ScanState → Instr
  | .idle => .idle
  | .seekingSync => .seekingSync
  | .readHeader => .readHeader
  | .validateHeader => .validateHeader
  | .readPayload => .readPayload
  | .validatePayload => .validatePayload
  | .emit => .emit
  | .resync => .resync
  | .done => .done
  | .fatal => .fatal

/-- What a step is to do. -/
inductive Fetch where
  /-- run this instruction at this state -/
  | run (i : Instr) (t : State)
  /-- a host access that gives the block no instruction -/
  | access (o : Out)

/-- The fetch: the host's next access is taken off the list; `pass`, or an empty list, lets the block take its step. -/
def State.fetch (s : State) : Fetch :=
  match s.host with
  | [] => .run (operationOf s.state) s
  | .pass :: rest => .run (operationOf s.state) { s with host := rest }
  | .writeReg offset v :: rest =>
    match commandOf offset v with
    | some i => .run i { s with host := rest }
    | none => .access (.next ({ s with host := rest }.busWrite offset v))
  | .readReg offset :: rest => .access (.next { s with host := rest, hostData := s.busRead offset })
  | .readRegByte offset :: rest =>
    .access (.next { s with host := rest, hostData := BitVec.ofNat 32 (s.busReadByte offset).toNat })
  | .writeStream addr v :: rest => .access ({ s with host := rest }.hostWriteStream addr v)
  | .readStream addr :: rest => .access ({ s with host := rest }.hostReadStream addr)
  | .readIdx addr :: rest => .access ({ s with host := rest }.hostReadIdx addr)

/-- The header bytes at the cursor, the stream reaching at least to their end, in a scanner state. -/
def State.placeHeader (s : State) (st : ScanState) (bs : List Byte) : State :=
  { s with
    host := [], state := st, stream := s.stream.writeBytes s.cursor.toNat bs,
    cfg := { s.cfg with streamLen := u64 (max s.len (s.cursor.toNat + bs.length)) } }

/-- The scanner state a STATE instruction is the operation of. -/
def scanStateOf : Instr → Option ScanState
  | .idle => some .idle
  | .seekingSync => some .seekingSync
  | .readHeader => some .readHeader
  | .validateHeader => some .validateHeader
  | .readPayload => some .readPayload
  | .validatePayload => some .validatePayload
  | .emit => some .emit
  | .resync => some .resync
  | .done => some .done
  | .fatal => some .fatal
  | _ => none

/-- A table word put where the next step fetches it (log entry 14): a header at the cursor with the header reader or
the resynchronizer about to read it, an identifier in `h.id` with EMIT about to classify it, a state code in the state
register, a command as the host's next access. -/
def State.placeWord (s : State) (nbits w : Nat) : State :=
  match decodeTableWord nbits w with
  | none => s
  | some i =>
    match i.format with
    | .wire => s.placeHeader .readHeader (tableWireBytes (if nbits ≤ 16 then 16 else nbits) w)
    | .wire4 => s.placeHeader .resync (tableWireBytes 32 w)
    | .ident => { s with host := [], state := .emit, h := { s.h with id := BitVec.ofNat 8 w } }
    | .state =>
      match scanStateOf i with
      | some st => { s with host := [], state := st }
      | none => s
    | .ctrl => { s with host := [.writeReg 0 (BitVec.ofNat 32 w)] }
    | .func | .err => s

end Sys2Proof.Machine
end

