-- ==== Sys2Proof/Safety.lean ====
section
/-! DEFINITION. The terms claims use: what a state must meet for the block to run without a stop, the plausible header,
the order of the index, the invariant of every state (spec/43_scanner.md R125, spec/44_buffers.md R140), and the measure
that bounds a scan (R124). -/

namespace Sys2Proof.Machine

/-- The host placed every byte of the stream below `L` (R175; log entry 3). -/
abbrev State.StreamLoaded (s : State) : Prop := ∀ a, a < s.len → (s.stream.read a).isSome = true

/-- The stream holds these bytes from offset `p`. -/
abbrev State.Holds (s : State) (p : Nat) (bs : List Byte) : Prop := s.stream.readSpan p bs.length = some bs

/-- The next step is the block's: the host has no access pending, or lets the block go first (R52; log entry 2). -/
abbrev State.BlockNext (s : State) : Prop := s.host = [] ∨ ∃ rest, s.host = .pass :: rest

/-- A scan has ended (R121). -/
abbrev State.Terminal (s : State) : Prop := s.state = .done ∨ s.state = .fatal

/-- A plausible header at `p` (R68): `A5 (0A|0C) xx ff` with `ff = last_family` and `p + 3 < L`. -/
abbrev State.Plausible (s : State) (p : Nat) : Prop :=
  p + 3 < s.len ∧ s.stream.read p = some Config.sync ∧
  (s.stream.read (p + 1) = some Config.hs10 ∨ s.stream.read (p + 1) = some Config.hs12) ∧
  s.stream.read (p + 3) = some s.lastFamily

/-- The twelve window registers hold the stream's bytes from the cursor, zeros beyond the end of the stream (R11, R92). -/
abbrev State.WindowAtCursor (s : State) (w : Window) : Prop :=
  ∀ i, i < 12 → w.toList[i]? =
    some (if s.cursor.toNat + i < s.len then (s.stream.read (s.cursor.toNat + i)).getD 0 else 0)

/-- The index memory with one entry more than `s` has: the 16 bytes at `16·count` (R44), every other byte as before. -/
abbrev State.EntryWritten (s : State) (off : U64) (len : U32) (id : Byte) (known : Bool) (m : Memory) : Prop :=
  (∀ j, j < 8 → m.read (16 * s.count.toNat + j) = some (BitVec.ofNat 8 (off.toNat / 256 ^ j))) ∧
  (∀ j, j < 4 → m.read (16 * s.count.toNat + 8 + j) = some (BitVec.ofNat 8 (len.toNat / 256 ^ j))) ∧
  m.read (16 * s.count.toNat + 12) = some id ∧
  m.read (16 * s.count.toNat + 13) = some (if known then 1 else 0) ∧
  m.read (16 * s.count.toNat + 14) = some 0 ∧ m.read (16 * s.count.toNat + 15) = some 0 ∧
  (∀ a, a < 16 * s.count.toNat ∨ 16 * s.count.toNat + 16 ≤ a → m.read a = s.idx.read a) ∧
  (s.idx.wf → m.wf)

/-- The capacity after one more entry (R141): doubled, up to `INDEX_MAX`, when it was exhausted. -/
abbrev State.capAfterAppend (s : State) : U64 :=
  if s.count = s.idxCap then BitVec.ofNat 64 (min s.params.indexMax.toNat (s.idxCap.toNat * 2)) else s.idxCap

/-- What an outcome does to a change of state that goes with it. -/
def mapNext (f : State → State) : Out → Out
  | .next s => .next (f s)
  | .fault r => .fault r
  | .refused r => .refused r

/-- The arguments no rule reads (R112, R162, U1 to U3) at other values. -/
def State.withUnusedArgs (s : State) (fromArg byArg debugLevel : U32) : State :=
  { s with cfg := { s.cfg with fromArg := fromArg, byArg := byArg, debugLevel := debugLevel } }

/-- The header registers hold the header at `hdr_start`: the window's first bytes are the stream's, the fields are their
decoding, `last_family` is its family (R11, R92, R95). -/
structure State.HeaderInHand (s : State) : Prop where
  bytes : s.stream.readSpan s.hdrStart.toNat s.h.headerSize.toNat = some (s.hbuf.toList.take s.h.headerSize.toNat)
  fields : parseHeader s.hbuf.toList = .ok s.h
  family : s.lastFamily = s.h.family

/-- The payload in hand (R14, R20, R117, R146). -/
structure State.PayloadInHand (s : State) : Prop where
  start : s.payloadStart.toNat = s.hdrStart.toNat + s.h.headerSize.toNat
  cursor : s.cursor.toNat = s.payloadStart.toNat + s.h.dataSize.toNat
  bytes : s.stream.readSpan s.payloadStart.toNat s.h.dataSize.toNat = some s.pbuf
  room : s.h.dataSize.toNat ≤ s.pbufCap.toNat

/-- How many bytes of its record an entry's `offset + length` leaves out at least: none where the offset names the
payload, the shortest header where it names the sync byte (R6, R120). -/
def State.leftOut (s : State) : Nat :=
  match s.params.offsetRef with
  | .payload => 0
  | .header => 10

/-- The index entries, for a scan that has read the stream up to `bound` (R18, R125 items 2 and 3): each entry's record
ends at or before `bound`, an entry that names its payload starts at 10 or later, its `known` bit is that of its
identifier, and the next entry's offset lies at least a header of 10 bytes after its end. -/
structure State.IndexInOrder (s : State) (bound : Nat) : Prop where
  entry : ∀ i, i < s.count.toNat → ∃ e, s.entryAt i = some e ∧
    e.offset.toNat + e.length.toNat + s.leftOut ≤ bound ∧
    (s.params.offsetRef = .payload → 10 ≤ e.offset.toNat) ∧ e.known = known e.id
  rising : ∀ i e f, i + 1 < s.count.toNat → s.entryAt i = some e → s.entryAt (i + 1) = some f →
    e.offset.toNat + e.length.toNat + 10 ≤ f.offset.toNat

/-- Up to where the stream has been read for the entries written so far: the header in hand is not indexed yet. -/
def State.indexedUpTo (s : State) : Nat :=
  match s.state with
  | .validateHeader | .readPayload | .validatePayload | .emit | .resync => s.hdrStart.toNat
  | .idle | .seekingSync | .readHeader | .done | .fatal => s.cursor.toNat

/-- What holds while a scan runs (R12, R122, R125). -/
structure State.ScanInv (s : State) : Prop where
  cursorInStream : s.cursor.toNat ≤ s.len
  headerBehindCursor : s.hdrStart.toNat ≤ s.cursor.toNat
  ignored : s.cfg.ignoreChecksums = true → s.checksumFailures = 0
  bound : s.cfg.toArg ≠ 0 → s.count.toNat < s.cfg.toArg.toNat
  index : s.IndexInOrder s.indexedUpTo
  seeking : s.state = .seekingSync → s.cursor = 0 ∧ s.count = 0
  reading : s.state = .readHeader → s.cursor.toNat < s.len
  header : s.state = .validateHeader ∨ s.state = .readPayload →
    s.HeaderInHand ∧ s.cursor.toNat = s.hdrStart.toNat + s.h.headerSize.toNat
  payload : s.state = .validatePayload ∨ s.state = .emit ∨ s.state = .resync → s.HeaderInHand ∧ s.PayloadInHand
  resyncing : s.state = .resync →
    s.cfg.ignoreChecksums = false ∧ 1 ≤ s.checksumFailures.toNat ∧ s.checksumFailures.toNat ≤ Config.failCap

/-- What holds in every state of the machine. -/
structure State.Inv (s : State) : Prop where
  streamForm : s.stream.wf
  idxForm : s.idx.wf
  params : s.params.Admissible
  /-- R125 item 7 -/
  error : s.errCode ≠ .none ↔ s.state = .fatal
  /-- R125 item 5 -/
  eof : s.earlyEof = true → s.state = .done
  /-- R125 item 4: only header mismatches take the count past the cap outside FATAL -/
  cap : s.state ≠ .fatal → (∀ e ∈ s.log, e.1 ≠ .hdrCksum) → s.checksumFailures.toNat ≤ Config.failCap
  /-- the index memory holds the bytes of `count` entries and no others (R43, R44, R144) -/
  idxCells : ∀ a, (s.idx.read a).isSome = true ↔ a < 16 * s.count.toNat
  countMax : s.count.toNat ≤ s.params.indexMax.toNat
  capPositive : 1 ≤ s.idxCap.toNat
  /-- R140: `count ≤ idx_cap` -/
  countCap : s.count.toNat ≤ s.idxCap.toNat
  /-- R12: IDLE is entered only by reset -/
  idle : s.state = .idle → s.cursor = 0 ∧ s.count = 0
  scan : s.busy = true → s.ScanInv

/-- How many block steps a scan can still take (R124). -/
def State.stepsLeft (s : State) : Nat :=
  let records := 5 * ((s.rem + 9) / 10)
  match s.state with
  | .seekingSync => records + 1
  | .readHeader => records
  | .validateHeader => records + 4
  | .readPayload => records + 3
  | .validatePayload => records + 2
  | .emit | .resync => records + 1
  | .idle | .done | .fatal => 0

/-! ## Well-formed records (R60, R65, R70) -/

/-- A record before it is laid out: which header format, and what it carries. -/
structure Record where
  wide : Bool
  id : Byte
  family : Byte
  payload : List Byte
  deriving DecidableEq, Repr

/-- The payload's length fits the `data_size` field of the format (R61, R62). -/
abbrev Record.Fits (r : Record) : Prop := r.payload.length < if r.wide then 4294967296 else 65536

/-- The header size of the record's format (R60). -/
def Record.headerSize (r : Record) : Nat := if r.wide then 12 else 10

/-- The header bytes the header checksum covers (R65): `header_checksum` alone is missing. -/
def Record.covered (r : Record) : List Byte :=
  if r.wide then
    [0xA5, 0x0C, r.id, r.family] ++ bytes32 (BitVec.ofNat 32 r.payload.length) ++ bytes16 (cksum r.payload)
  else [0xA5, 0x0A, r.id, r.family] ++ bytes16 (BitVec.ofNat 16 r.payload.length) ++ bytes16 (cksum r.payload)

/-- The bytes of the record with both checksums right (R70: `REC10`, `REC12`). -/
def Record.bytes (r : Record) : List Byte := r.covered ++ bytes16 (cksum r.covered) ++ r.payload

/-- The index of a stream of well-formed records from offset `p` (R120, R126 item 1). -/
def indexOf (ref : Config.OffsetRef) : Nat → List Record → List (U64 × U32 × Byte)
  | _, [] => []
  | p, r :: rs =>
    (BitVec.ofNat 64 (match ref with | .payload => p + r.headerSize | .header => p),
      BitVec.ofNat 32 r.payload.length, r.id) :: indexOf ref (p + r.bytes.length) rs

end Sys2Proof.Machine
end

