-- ==== Sys2Proof/Certificates/Slice0/Obligations.lean ====
section
/-! DEFINITION. The statements for the provers. Each docstring says which rule of spec/ it formalises. A statement that
an instruction answers `next` for an exact state is its completion, its result and its frame in one: every register, flag
and byte of memory not named in the record update is as before. -/

open Sys2Proof Sys2Proof.Machine

/-! ## Fetching, decoding -/

/-- R110, R69: with no host access pending (or a `pass`), the step is the operation the state register selects. -/
def Obligations.StepRunsSelectedOperation : Prop :=
  ∀ (s : State) (i : Instr), decodeState (stateCode s.state) = .ok i →
    (s.host = [] → step s = exec i s) ∧
    (∀ rest, s.host = .pass :: rest → step s = exec i { s with host := rest })

/-- R22, R69: a write to CTRL (offset 0) runs SOFT_RESET when bit 1 is set, else START when bit 0 is, else nothing. -/
def Obligations.ControlWriteRunsCommand : Prop :=
  ∀ (s : State) (v : U32) (rest : List HostAccess), s.host = .writeReg 0 v :: rest →
    (v.getLsbD 1 = true → step s = exec .softReset { s with host := rest }) ∧
    (v.getLsbD 1 = false → v.getLsbD 0 = true → step s = exec .start { s with host := rest }) ∧
    (v.getLsbD 1 = false → v.getLsbD 0 = false → step s = .next { s with host := rest })

/-- R92, R115: READ_HEADER runs the WIRE row that the bytes at the cursor decode to. -/
def Obligations.ReadHeaderRunsRecordAtCursor : Prop :=
  ∀ (s : State) (i : Instr) (bs rest : List Byte),
    s.stream.readSpan s.cursor.toNat (min 12 (s.len - s.cursor.toNat)) = some bs →
    decode .wire bs = .ok (i, rest) → exec .readHeader s = exec i s

/-- R101, R119: RESYNC at four bytes that decode to a WIRE4 row runs that row. -/
def Obligations.ResyncRunsCandidateAtCursor : Prop :=
  ∀ (s : State) (i : Instr) (bs : List Byte),
    s.cursor.toNat + 4 ≤ s.len → s.stream.readSpan s.cursor.toNat 4 = some bs →
    decode .wire4 bs = .ok (i, []) → exec .resync s = exec i s

/-- R120, R67: EMIT runs the ID row of the identifier in hand, then its stop test. -/
def Obligations.EmitRunsIdentifierRow : Prop :=
  ∀ s : State, s.count ≠ s.params.indexMax →
    exec .emit s = mapNext (fun t => { t with
      state := if (t.cfg.toArg ≠ 0 ∧ t.count.toNat = t.cfg.toArg.toNat) ∨ t.cursor = t.cfg.streamLen
        then .done else .readHeader }) (exec (decodeId s.h.id) s)

/-- R61, R62, R67 to R69, R72: every well-formed instruction with an encoding decodes back from it, with the bytes that
follow left over; a FUNC row has no encoding. -/
def Obligations.DecodeEncodeEveryInstruction : Prop :=
  ∀ (i : Instr) (rest : List Byte), i.wellFormed = true →
    decode i.format (encode i ++ rest) = if i.format = .func then .error .noEncoding else .ok (i, rest)

/-- R61 to R64, R68: what the stream's two decoders accept is exactly what the encoder writes: no accepted header or
candidate has a bit the instruction does not carry. -/
def Obligations.AcceptedBytesAreTheEncoding : Prop :=
  ∀ (f : Format) (i : Instr) (bs rest : List Byte), f = .wire ∨ f = .wire4 ∨ f = .ident →
    decode f bs = .ok (i, rest) → i.format = f ∧ i.wellFormed = true ∧ bs = encode i ++ rest

/-- Words written out from R61, R62, R67, R68, R13, R22, R150 decode to the instructions they stand for: an H10 and an H12
header, both candidates, identifiers, every state code and a reserved one, the commands, every error code. -/
def Obligations.SpecWordsDecode : Prop :=
  decode .wire [0xA5, 0x0A, 0x15, 0x10, 0x04, 0x00, 0x90, 0xBB, 0xDA, 0x8B, 0x01] =
    .ok (.rec10 0x15 0x10 0x0004 0xBB90 0x8BDA, [0x01]) ∧
  decode .wire [0xA5, 0x0C, 0x15, 0x10, 0x78, 0x56, 0x34, 0x12, 0x36, 0x3D, 0x80, 0x0F] =
    .ok (.rec12 0x15 0x10 0x12345678 0x3D36 0x0F80, []) ∧
  decode .wire4 [0xA5, 0x0A, 0x99, 0x10] = .ok (.resyncCandidate10 0x99 0x10, []) ∧
  decode .wire4 [0xA5, 0x0C, 0x99, 0x10] = .ok (.resyncCandidate12 0x99 0x10, []) ∧
  decode .ident [0xA0] = .ok (.id160, []) ∧ decode .ident [25] = .ok (.idUnknown 25, []) ∧
  [0, 1, 2, 3, 4, 5, 6, 7, 8, 9, 10].map (fun c => decode .state [c]) =
    [.ok (.idle, []), .ok (.seekingSync, []), .ok (.readHeader, []), .ok (.validateHeader, []), .ok (.readPayload, []),
     .ok (.validatePayload, []), .ok (.emit, []), .ok (.resync, []), .ok (.done, []), .ok (.fatal, []),
     .error .reservedState] ∧
  [1, 2, 3].map (fun c => decode .ctrl [c, 0, 0, 0]) = [.ok (.start, []), .ok (.softReset, []), .ok (.softReset, [])] ∧
  [0, 1, 2, 3, 4, 5, 6].map (fun c => decode .err [c]) =
    [.error .noError, .ok (.eOpen, []), .ok (.eNoSync, []), .ok (.eBadSync, []), .ok (.eHdrSize, []),
     .ok (.eCksumCap, []), .ok (.eIndexFull, [])]

/-! ## Reset and the host's commands -/

/-- R170 with R22's reset column: after reset the block is in IDLE and every register of the map reads 0, but LAST_FAMILY
(0x10) and IDX_CAP (INDEX_CAP0); the header window, the header record, the flags and the log are clear. -/
def Obligations.ResetRegistersReadAsSpecified : Prop :=
  ∀ p : Config.Params,
    let s := State.resetWith p
    (∀ offset, s.busRead offset =
      if offset = 0x48 then 0x10
      else if offset = 0x50 then BitVec.ofNat 32 p.indexCap0.toNat
      else if offset = 0x54 then BitVec.ofNat 32 (p.indexCap0.toNat / 4294967296) else 0) ∧
    s.state = .idle ∧ s.hbuf.toList = List.replicate 12 0 ∧ s.h = ⟨0, 0, 0, 0, 0, 0, 0⟩ ∧ s.errCode = .none ∧
    s.calcHdrCksum = 0 ∧ s.calcPayCksum = 0 ∧ s.earlyEof = false ∧ s.used12 = false ∧ s.log = [] ∧
    s.cfg = ⟨0, 0, 0, false, 0, 0, false⟩

/-- R171: SOFT_RESET has exactly the effect of hardware reset, in any state (the parameters and the host's own side are no
part of the block: log entry 19). -/
def Obligations.SoftResetIsReset : Prop :=
  ∀ s : State, exec .softReset s =
    .next { State.resetWith s.params with host := s.host, hostData := s.hostData }

/-- R111: START while busy has no effect; otherwise it initialises every scan-state register, keeps the configuration, and
goes to SEEKING_SYNC, or to FATAL with E_OPEN when there is no stream. -/
def Obligations.StartBeginsAFreshScan : Prop :=
  ∀ s : State,
    (1 ≤ (stateCode s.state).toNat → (stateCode s.state).toNat ≤ 7 → exec .start s = .next s) ∧
    (s.state = .idle ∨ s.state = .done ∨ s.state = .fatal →
      let t : State := {
        params := s.params, host := s.host, hostData := s.hostData, state := .seekingSync, cursor := 0, hdrStart := 0, payloadStart := 0, hbuf := ⟨0, 0, 0, 0, 0, 0, 0, 0, 0, 0, 0, 0⟩, h := ⟨0, 0, 0, 0, 0, 0, 0⟩,
        lastFamily := 0x10, checksumFailures := 0, earlyEof := false, used12 := false, count := 0,
        idxCap := s.params.indexCap0, idx := [], pbuf := [], pbufCap := 0, calcHdrCksum := 0, calcPayCksum := 0,
        cksumOut := 0, errCode := .none, errOffset := 0, log := [], cfg := s.cfg, stream := s.stream }
      (s.cfg.streamPresent = true → exec .start s = .next t) ∧
      (s.cfg.streamPresent = false → exec .start s = .next { t with errCode := .cannotOpen, errOffset := 0, state := .fatal }))

/-- R172: the state at the start of a scan depends only on the stream, its length and the configuration (and the
implementation's parameters), never on what an earlier scan left. -/
def Obligations.ScanStartForgetsHistory : Prop :=
  ∀ s t : State, s.busy = false → t.busy = false → s.cfg = t.cfg → s.stream = t.stream → s.params = t.params →
    s.host = t.host → s.hostData = t.hostData → exec .start s = exec .start t

/-! ## The scanner's states -/

/-- R114: SEEKING_SYNC goes to the least offset that holds 0xA5, or to FATAL with E_NO_SYNC at offset L. -/
def Obligations.SeekingSyncFindsFirstSyncByte : Prop :=
  ∀ s : State, s.StreamLoaded → s.cursor.toNat ≤ s.len →
    (∀ p, s.cursor.toNat ≤ p → p < s.len → s.stream.read p = some 0xA5 →
      (∀ a, s.cursor.toNat ≤ a → a < p → s.stream.read a ≠ some 0xA5) →
      exec .seekingSync s = .next { s with cursor := BitVec.ofNat 64 p, state := .readHeader }) ∧
    ((∀ a, s.cursor.toNat ≤ a → a < s.len → s.stream.read a ≠ some 0xA5) →
      exec .seekingSync s = .next { s with
        cursor := s.cfg.streamLen, errCode := .noSync, errOffset := s.cfg.streamLen, state := .fatal })

/-- R92, R154: the four checks of READ_HEADER in their order, and what each leaves. -/
def Obligations.ReadHeaderChecksInOrder : Prop :=
  ∀ (s : State) (w : Window), s.StreamLoaded → s.cursor.toNat < s.len → s.WindowAtCursor w →
    let t : State := { s with hdrStart := s.cursor, hbuf := w }
    let early : State := { t with
      log := s.log ++ [(.shortRead, s.cursor)], earlyEof := true, cursor := s.cfg.streamLen, state := .done }
    (s.stream.read s.cursor.toNat ≠ some 0xA5 →
      exec .readHeader s = .next { t with errCode := .badSync, errOffset := s.cursor, state := .fatal }) ∧
    (s.stream.read s.cursor.toNat = some 0xA5 →
      (s.len - s.cursor.toNat < 2 → exec .readHeader s = .next early) ∧
      (∀ hs : Byte, s.cursor.toNat + 1 < s.len → s.stream.read (s.cursor.toNat + 1) = some hs →
        (hs ≠ 10 → hs ≠ 12 →
          exec .readHeader s = .next { t with errCode := .hdrSize, errOffset := s.cursor, state := .fatal }) ∧
        (hs = 10 ∨ hs = 12 → s.len - s.cursor.toNat < hs.toNat → exec .readHeader s = .next early)))

/-- R93, R95: a complete H10 header at the cursor, its bytes spelled out, is decoded field by field. -/
def Obligations.ReadHeaderDecodesH10 : Prop :=
  ∀ (s : State) (w : Window) (id family n0 n1 d0 d1 c0 c1 : Byte), s.StreamLoaded → s.cursor.toNat + 10 ≤ s.len →
    s.WindowAtCursor w → s.Holds s.cursor.toNat [0xA5, 0x0A, id, family, n0, n1, d0, d1, c0, c1] →
    exec .readHeader s = .next { s with
      hdrStart := s.cursor, hbuf := w,
      h := { sync := 0xA5, headerSize := 10, id := id, family := family,
             dataSize := BitVec.ofNat 32 (n0.toNat + 256 * n1.toNat),
             dataChecksum := BitVec.ofNat 16 (d0.toNat + 256 * d1.toNat),
             headerChecksum := BitVec.ofNat 16 (c0.toNat + 256 * c1.toNat) },
      lastFamily := family, cursor := BitVec.ofNat 64 (s.cursor.toNat + 10), state := .validateHeader }

/-- R94, R95: a complete H12 header at the cursor, its bytes spelled out, is decoded field by field, and
`used_12_byte_header` is set. -/
def Obligations.ReadHeaderDecodesH12 : Prop :=
  ∀ (s : State) (w : Window) (id family n0 n1 n2 n3 d0 d1 c0 c1 : Byte), s.StreamLoaded →
    s.cursor.toNat + 12 ≤ s.len → s.WindowAtCursor w →
    s.Holds s.cursor.toNat [0xA5, 0x0C, id, family, n0, n1, n2, n3, d0, d1, c0, c1] →
    exec .readHeader s = .next { s with
      hdrStart := s.cursor, hbuf := w,
      h := { sync := 0xA5, headerSize := 12, id := id, family := family,
             dataSize := BitVec.ofNat 32 (n0.toNat + 256 * n1.toNat + 65536 * n2.toNat + 16777216 * n3.toNat),
             dataChecksum := BitVec.ofNat 16 (d0.toNat + 256 * d1.toNat),
             headerChecksum := BitVec.ofNat 16 (c0.toNat + 256 * c1.toNat) },
      lastFamily := family, used12 := true, cursor := BitVec.ofNat 64 (s.cursor.toNat + 12),
      state := .validateHeader }

/-- R92 to R95 for the WIRE rows as instructions (log entry 9): the header with these fields at the cursor is read, or
ends the scan early when the stream is too short for it. -/
def Obligations.RecordRowsReadTheHeader : Prop :=
  ∀ (s : State) (w : Window) (id family : Byte) (n16 d c : U16) (n32 : U32), s.StreamLoaded → s.WindowAtCursor w →
    let t : State := { s with hdrStart := s.cursor, hbuf := w, lastFamily := family, state := .validateHeader }
    let early : State := { s with
      hdrStart := s.cursor, hbuf := w, log := s.log ++ [(.shortRead, s.cursor)], earlyEof := true,
      cursor := s.cfg.streamLen, state := .done }
    (s.cursor.toNat + 10 ≤ s.len → exec (.rec10 id family n16 d c) s = .next { t with
      h := ⟨0xA5, 10, id, family, n16.setWidth 32, d, c⟩, cursor := BitVec.ofNat 64 (s.cursor.toNat + 10) }) ∧
    (s.len < s.cursor.toNat + 10 → exec (.rec10 id family n16 d c) s = .next early) ∧
    (s.cursor.toNat + 12 ≤ s.len → exec (.rec12 id family n32 d c) s = .next { t with
      h := ⟨0xA5, 12, id, family, n32, d, c⟩, used12 := true, cursor := BitVec.ofNat 64 (s.cursor.toNat + 12) }) ∧
    (s.len < s.cursor.toNat + 12 → exec (.rec12 id family n32 d c) s = .next early)

/-- R116: VALIDATE_HEADER latches the computed checksum, counts and logs a mismatch unless checksums are ignored, and always
goes to READ_PAYLOAD. -/
def Obligations.ValidateHeaderIsLenient : Prop :=
  ∀ s : State,
    let c := cksum (s.hbuf.toList.take (s.h.headerSize.toNat - 2))
    let t : State := { s with cksumOut := c, calcHdrCksum := c, state := .readPayload }
    (s.cfg.ignoreChecksums = true ∨ c = s.h.headerChecksum → exec .validateHeader s = .next t) ∧
    (s.cfg.ignoreChecksums = false → c ≠ s.h.headerChecksum →
      exec .validateHeader s = .next { t with
        checksumFailures := BitVec.ofNat 32 (min (s.checksumFailures.toNat + 1) 4294967295),
        log := s.log ++ [(.hdrCksum, s.hdrStart)] })

/-- R117, R145: READ_PAYLOAD raises `pbuf_cap`, then reads the payload or ends the scan early. -/
def Obligations.ReadPayloadReadsOrEndsEarly : Prop :=
  ∀ s : State,
    let cap := if s.pbufCap.toNat < s.h.dataSize.toNat then s.h.dataSize else s.pbufCap
    (s.len - s.cursor.toNat < s.h.dataSize.toNat →
      exec .readPayload s = .next { s with
        pbufCap := cap, log := s.log ++ [(.shortRead, s.hdrStart)], earlyEof := true, cursor := s.cfg.streamLen,
        state := .done }) ∧
    (∀ bs : List Byte, s.h.dataSize.toNat ≤ s.len - s.cursor.toNat →
      s.stream.readSpan s.cursor.toNat s.h.dataSize.toNat = some bs →
      exec .readPayload s = .next { s with
        pbufCap := cap, payloadStart := s.cursor, pbuf := bs,
        cursor := BitVec.ofNat 64 (s.cursor.toNat + s.h.dataSize.toNat), state := .validatePayload })

/-- R118: VALIDATE_PAYLOAD latches the computed checksum; a match, or ignored checksums, goes to EMIT; a mismatch is counted
and logged, and is fatal once the count exceeds 100, else goes to RESYNC. -/
def Obligations.ValidatePayloadCountsAndCaps : Prop :=
  ∀ s : State, s.h.dataSize.toNat ≤ s.pbuf.length →
    let c := cksum (s.pbuf.take s.h.dataSize.toNat)
    let t : State := { s with cksumOut := c, calcPayCksum := c }
    let n := min (s.checksumFailures.toNat + 1) 4294967295
    let u : State := { t with
      checksumFailures := BitVec.ofNat 32 n, log := s.log ++ [(.payloadCksum, s.hdrStart)] }
    (s.cfg.ignoreChecksums = true ∨ c = s.h.dataChecksum → exec .validatePayload s = .next { t with state := .emit }) ∧
    (s.cfg.ignoreChecksums = false → c ≠ s.h.dataChecksum →
      (100 < n → exec .validatePayload s = .next { u with
        errCode := .cksumCap, errOffset := s.hdrStart, state := .fatal }) ∧
      (n ≤ 100 → exec .validatePayload s = .next { u with state := .resync }))

/-- R101, R68, R119: RESYNC goes to the least plausible header at or after the cursor, or ends the scan early. -/
def Obligations.ResyncFindsFirstPlausibleHeader : Prop :=
  ∀ s : State, s.StreamLoaded → s.cursor.toNat ≤ s.len →
    (∀ p, s.cursor.toNat ≤ p → s.Plausible p → (∀ a, s.cursor.toNat ≤ a → a < p → ¬ s.Plausible a) →
      exec .resync s = .next { s with cursor := BitVec.ofNat 64 p, state := .readHeader }) ∧
    ((∀ a, s.cursor.toNat ≤ a → ¬ s.Plausible a) →
      exec .resync s = .next { s with
        log := s.log ++ [(.resyncEof, s.cfg.streamLen)], earlyEof := true, cursor := s.cfg.streamLen,
        state := .done })

/-- R101 for the WIRE4 rows as instructions (log entry 10): the candidate at the cursor is accepted when its family byte
lies in the stream and is `last_family`, whatever its `id`; otherwise the search goes on from the next byte. -/
def Obligations.CandidateRowsAcceptOrSearchOn : Prop :=
  ∀ (s : State) (id family : Byte) (i : Instr), i = .resyncCandidate10 id family ∨ i = .resyncCandidate12 id family →
    s.StreamLoaded → s.cursor.toNat < s.len →
    (s.cursor.toNat + 3 < s.len → family = s.lastFamily → exec i s = .next { s with state := .readHeader }) ∧
    (s.len ≤ s.cursor.toNat + 3 ∨ family ≠ s.lastFamily →
      (∀ p, s.cursor.toNat < p → s.Plausible p → (∀ a, s.cursor.toNat < a → a < p → ¬ s.Plausible a) →
        exec i s = .next { s with cursor := BitVec.ofNat 64 p, state := .readHeader }) ∧
      ((∀ a, s.cursor.toNat < a → ¬ s.Plausible a) →
        exec i s = .next { s with
          log := s.log ++ [(.resyncEof, s.cfg.streamLen)], earlyEof := true, cursor := s.cfg.streamLen,
          state := .done }))

/-- R120, R141 to R143, R44: EMIT appends the 16 bytes of the entry of the record in hand at the end of the index, growing its
capacity by doubling when it is exhausted, logs an unknown identifier, and stops on the bound or at the end of the stream; with the index full it is fatal and writes nothing. Everything but the
index, `count`, `idx_cap`, the log and the state is unchanged. -/
def Obligations.EmitAppendsTheRecord : Prop :=
  ∀ s : State,
    let off := match s.params.offsetRef with | .payload => s.payloadStart | .header => s.hdrStart
    let isKnown := decide (s.h.id.toNat ∈ [21, 22, 23, 24, 26, 27, 28, 29, 30, 31, 160])
    (s.count = s.params.indexMax →
      exec .emit s = .next { s with errCode := .indexFull, errOffset := s.hdrStart, state := .fatal }) ∧
    (s.count.toNat < s.params.indexMax.toNat → ∃ t : State,
      exec .emit s = .next t ∧
      t = { s with count := t.count, idxCap := t.idxCap, idx := t.idx, log := t.log, state := t.state } ∧
      t.count.toNat = s.count.toNat + 1 ∧ t.idxCap = s.capAfterAppend ∧
      s.EntryWritten off s.h.dataSize s.h.id isKnown t.idx ∧
      t.entryAt s.count.toNat = some { offset := off, length := s.h.dataSize, id := s.h.id, known := isKnown } ∧
      t.log = (if isKnown then s.log else s.log ++ [(.unknownId, s.hdrStart)]) ∧
      t.state = if (s.cfg.toArg ≠ 0 ∧ t.count.toNat = s.cfg.toArg.toNat) ∨ s.cursor = s.cfg.streamLen
        then .done else .readHeader)

/-- R67, R120, R141, R142, R44 for the ID rows as instructions (log entry 8): each known identifier's row appends the 16
bytes of the entry of the record in hand with its own number and `known = 1`, growing the capacity as IDX_APPEND does;
ID_UNKNOWN appends it with `known = 0` and logs the warning. -/
def Obligations.IdentifierRowsAppendTheirEntry : Prop :=
  ∀ s : State, s.count.toNat < s.params.indexMax.toNat →
    let off := match s.params.offsetRef with | .payload => s.payloadStart | .header => s.hdrStart
    let appended := fun (t : State) (id : Byte) (isKnown : Bool) =>
      t.count.toNat = s.count.toNat + 1 ∧ t.idxCap = s.capAfterAppend ∧
      s.EntryWritten off s.h.dataSize id isKnown t.idx ∧
      t.entryAt s.count.toNat = some ⟨off, s.h.dataSize, id, isKnown⟩
    (∀ r ∈ [(Instr.id21, (21 : Byte)), (.id22, 22), (.id23, 23), (.id24, 24), (.id26, 26), (.id27, 27), (.id28, 28),
        (.id29, 29), (.id30, 30), (.id31, 31), (.id160, 160)],
      ∃ t : State, exec r.1 s = .next t ∧
        t = { s with count := t.count, idxCap := t.idxCap, idx := t.idx } ∧ appended t r.2 true) ∧
    (∀ b : Byte, (Instr.idUnknown b).wellFormed = true →
      ∃ t : State, exec (.idUnknown b) s = .next t ∧
        t = { s with count := t.count, idxCap := t.idxCap, idx := t.idx,
                     log := s.log ++ [(.unknownId, s.hdrStart)] } ∧
        appended t b false)

/-- R121, R110, R111: IDLE, DONE and FATAL have no operation: the instruction changes nothing. -/
def Obligations.TerminalStatesTakeNoStep : Prop :=
  ∀ s : State, exec .idle s = .next s ∧ exec .done s = .next s ∧ exec .fatal s = .next s ∧
    (s.host = [] → s.state = .idle ∨ s.state = .done ∨ s.state = .fatal → step s = .next s)

/-! ## The component functions -/

/-- R80: the checksum of a span is the seed plus its little-endian words, an odd trailing byte as a high byte, modulo 2^16;
the engine changes no register of the block (its result is at its output, log entry 6). -/
def Obligations.ChecksumIsSeedPlusWords : Prop :=
  ∀ (bs : List Byte) (s : State),
    (cksum bs).toNat = (0xB58C
      + (Finset.range (bs.length / 2)).sum
          (fun i => (bs.getD (2 * i) 0).toNat + 256 * (bs.getD (2 * i + 1) 0).toNat)
      + (if bs.length % 2 = 1 then 256 * (bs.getD (bs.length - 1) 0).toNat else 0)) % 65536 ∧
    exec (.cksum bs) s = .next { s with cksumOut := cksum bs }

/-- R82 law 1: the checksum of an even-length span does not depend on the order of its pairs. -/
def Obligations.ChecksumIgnoresPairOrder : Prop :=
  ∀ ps qs : List (Byte × Byte), ps.Perm qs →
    cksum (ps.flatMap fun p => [p.1, p.2]) = cksum (qs.flatMap fun p => [p.1, p.2])

/-- R82 law 2: changing one byte of a span, in any way, changes its checksum. -/
def Obligations.ChecksumSeesOneByte : Prop :=
  ∀ (xs ys : List Byte) (a b : Byte), a ≠ b → cksum (xs ++ a :: ys) ≠ cksum (xs ++ b :: ys)

/-- R82 laws 3 and 5: a span of zeros of any length has the seed as its checksum; an odd trailing byte counts as if a zero
byte stood before it. -/
def Obligations.ChecksumZeroSpanAndOddTail : Prop :=
  (∀ n : Nat, cksum (List.replicate n 0) = 0xB58C) ∧
  (∀ (bs : List Byte) (b : Byte), bs.length % 2 = 0 → cksum (bs ++ [b]) = cksum (bs ++ [0, b]))

/-- R141, R142, R44: IDX_APPEND grows the capacity by doubling when it is exhausted, writes the 16 bytes of the entry at
`16·count`, little-endian, and nothing else; beyond its precondition it stops by name (log entry 18). -/
def Obligations.IdxAppendWritesSixteenBytes : Prop :=
  ∀ (s : State) (off : U64) (len : U32) (id : Byte) (k : Bool),
    (s.params.indexMax.toNat ≤ s.count.toNat →
      exec (.idxAppend off len id k) s = .fault .indexAppendPrecondition) ∧
    (s.count.toNat < s.params.indexMax.toNat → ∃ m : Memory,
      exec (.idxAppend off len id k) s = .next { s with
        idx := m, count := BitVec.ofNat 64 (s.count.toNat + 1), idxCap := s.capAfterAppend } ∧
      s.EntryWritten off len id k m)

/-- R145: PBUF_GROW raises `pbuf_cap` to `data_size` and never lowers it. -/
def Obligations.PbufGrowFollowsDataSize : Prop :=
  ∀ s : State,
    (s.pbufCap.toNat < s.h.dataSize.toNat → exec .pbufGrow s = .next { s with pbufCap := s.h.dataSize }) ∧
    (s.h.dataSize.toNat ≤ s.pbufCap.toNat → exec .pbufGrow s = .next s)

/-- R150, R151 for the ERR rows as instructions (log entry 11): each fatal condition records its code and its offset, enters
FATAL, and changes nothing else; `STATUS` shows FATAL and the code of the table. -/
def Obligations.RaiseRecordsCodeAndOffset : Prop :=
  (∀ s : State,
    exec .eOpen s = .next { s with errCode := .cannotOpen, errOffset := 0, state := .fatal } ∧
    exec .eNoSync s = .next { s with errCode := .noSync, errOffset := s.cfg.streamLen, state := .fatal } ∧
    exec .eBadSync s = .next { s with errCode := .badSync, errOffset := s.hdrStart, state := .fatal } ∧
    exec .eHdrSize s = .next { s with errCode := .hdrSize, errOffset := s.hdrStart, state := .fatal } ∧
    exec .eCksumCap s = .next { s with errCode := .cksumCap, errOffset := s.hdrStart, state := .fatal } ∧
    exec .eIndexFull s = .next { s with errCode := .indexFull, errOffset := s.hdrStart, state := .fatal }) ∧
  (∀ (c : Code4) (i : Instr) (s : State), decodeErr c = .ok i →
    ∃ t, exec i s = .next t ∧ errorCode t.errCode = c ∧ (t.busRead 0x04).toNat / 4096 = c.toNat ∧
      (t.busRead 0x04).getLsbD 6 = true)

/-! ## The host's registers and memories -/

/-- R22: the fields of STATUS. -/
def Obligations.StatusFields : Prop :=
  ∀ s : State,
    let v := s.busRead 0x04
    let code := (stateCode s.state).toNat
    v.toNat % 16 = code ∧ v.getLsbD 4 = decide (1 ≤ code ∧ code ≤ 7) ∧ v.getLsbD 5 = decide (code = 8) ∧
    v.getLsbD 6 = decide (code = 9) ∧ v.getLsbD 7 = false ∧ v.getLsbD 8 = s.earlyEof ∧ v.getLsbD 9 = s.used12 ∧
    v.getLsbD 10 = false ∧ v.getLsbD 11 = false ∧ v.toNat / 4096 = (errorCode s.errCode).toNat

/-- R22, R21, R47: the RW-idle registers show the configuration, each its own field, the read-only registers the scan state,
a 64-bit quantity as its low and high half, the window four bytes a register; CTRL reads 0; a read changes nothing but
what the host holds. That offsets outside the map, those that are no multiple of 4 among them, read 0 is the model's
choice (log entry 17). -/
def Obligations.RegisterReadsShowTheState : Prop :=
  (∀ s : State,
    s.busRead 0x00 = 0 ∧
    (s.busRead 0x08).toNat = (if s.cfg.ignoreChecksums then 1 else 0) + (if s.cfg.streamPresent then 2 else 0) ∧
    s.busRead 0x0C = s.cfg.debugLevel ∧ s.busRead 0x10 = s.cfg.fromArg ∧ s.busRead 0x14 = s.cfg.toArg ∧
    s.busRead 0x18 = s.cfg.byArg ∧
    (s.busRead 0x20).toNat + 4294967296 * (s.busRead 0x24).toNat = s.cfg.streamLen.toNat ∧ s.busRead 0x28 = s.checksumFailures ∧
    (s.busRead 0x2C).toNat = s.calcHdrCksum.toNat + 65536 * s.calcPayCksum.toNat ∧
    (s.busRead 0x30).toNat + 4294967296 * (s.busRead 0x34).toNat = s.count.toNat ∧
    (s.busRead 0x38).toNat + 4294967296 * (s.busRead 0x3C).toNat = s.cursor.toNat ∧
    (s.busRead 0x40).toNat + 4294967296 * (s.busRead 0x44).toNat = s.errOffset.toNat ∧
    (s.busRead 0x48).toNat = s.lastFamily.toNat ∧ s.busRead 0x4C = s.pbufCap ∧
    (s.busRead 0x50).toNat + 4294967296 * (s.busRead 0x54).toNat = s.idxCap.toNat ∧
    (s.busRead 0x58).toNat + 4294967296 * (s.busRead 0x5C).toNat = s.hdrStart.toNat ∧
    (∀ k, k < 12 → some (s.busReadByte (0x60 + k)) = s.hbuf.toList[k]?) ∧
    s.busRead 0x6C = s.h.dataSize ∧
    (s.busRead 0x70).toNat + 4294967296 * (s.busRead 0x74).toNat = s.payloadStart.toNat ∧
    s.busRead 0x1C = 0 ∧ (∀ offset, 0x78 ≤ offset ∨ offset % 4 ≠ 0 → s.busRead offset = 0)) ∧
  (∀ (s : State) (offset : Nat) (rest : List HostAccess),
    (s.host = .readReg offset :: rest → step s = .next { s with host := rest, hostData := s.busRead offset }) ∧
    (s.host = .readRegByte offset :: rest → step s = .next { s with
      host := rest
      hostData := BitVec.ofNat 32 ((s.busRead (offset - offset % 4)).toNat / 256 ^ (offset % 4) % 256) }))

/-- R22, R181: a host write while busy has no effect; while not busy the RW-idle registers take it and read back (CFG its two
bits), and no other state changes; writes to other offsets than CTRL and the RW-idle registers never have an effect. -/
def Obligations.RegisterWritesOnlyWhenIdle : Prop :=
  ∀ (s : State) (offset : Nat) (v : U32) (rest : List HostAccess), s.host = .writeReg offset v :: rest → offset ≠ 0 →
    let rwIdle := [0x08, 0x0C, 0x10, 0x14, 0x18, 0x20, 0x24]
    (s.busy = true ∨ offset ∉ rwIdle → step s = .next { s with host := rest }) ∧
    (s.busy = false → offset ∈ rwIdle → ∃ t : State, step s = .next t ∧
      t = { s with host := rest, cfg := t.cfg } ∧
      t.busRead offset = (if offset = 0x08 then v &&& 3 else v) ∧
      (∀ o ∈ rwIdle, o ≠ offset → t.busRead o = s.busRead o))

/-- R52, R144, R180, R182: while the block is not busy the host may write a byte of the stream space (and only that byte
changes), read a stream byte that was placed, and read an index byte below `16·count`; while it is busy these are outside
the contract and refused. That an address at or beyond `L` is treated as any other is the model's choice (log entry 23). -/
def Obligations.HostMemoryAccessNeedsIdle : Prop :=
  (∀ (s : State) (addr : U64) (v : Byte) (rest : List HostAccess), s.host = .writeStream addr v :: rest →
    (s.busy = true → step s = .refused .hostAccessWhileBusy) ∧
    (s.busy = false → ∃ m : Memory, step s = .next { s with host := rest, stream := m } ∧
      (∀ a, m.read a = if a = addr.toNat then some v else s.stream.read a) ∧ (s.stream.wf → m.wf))) ∧
  (∀ (s : State) (addr : U64) (rest : List HostAccess), s.host = .readStream addr :: rest →
    (s.busy = true → step s = .refused .hostAccessWhileBusy) ∧
    (∀ b : Byte, s.busy = false → s.stream.read addr.toNat = some b →
      step s = .next { s with host := rest, hostData := BitVec.ofNat 32 b.toNat }) ∧
    (s.busy = false → s.stream.read addr.toNat = none → step s = .refused .streamByteUnspecified)) ∧
  (∀ (s : State) (addr : Nat) (rest : List HostAccess), s.host = .readIdx addr :: rest →
    (s.busy = true → step s = .refused .hostAccessWhileBusy) ∧
    (∀ b : Byte, s.busy = false → addr < 16 * s.count.toNat → s.idx.read addr = some b →
      step s = .next { s with host := rest, hostData := BitVec.ofNat 32 b.toNat }) ∧
    (s.busy = false → 16 * s.count.toNat ≤ addr → step s = .refused .indexByteUnspecified))

/-- R19, R121, R152: at DONE the result is the index with the statistics, one triple for each entry; at FATAL it is the error
alone; while a scan runs, and before the first, there is none. -/
def Obligations.ResultOfAScan : Prop :=
  ∀ s : State, s.Inv →
    (s.state = .done → ∃ index, s.result = some (.ok index s.checksumFailures s.earlyEof s.used12) ∧
      index.length = s.count.toNat ∧
      ∀ i, i < s.count.toNat → ∃ e, s.entryAt i = some e ∧ index[i]? = some (e.offset, e.length, e.id)) ∧
    (s.state = .fatal → s.result = some (.error s.errCode s.errOffset)) ∧
    (s.state ≠ .done → s.state ≠ .fatal → s.result = none)

/-- R175, U7, U11 (log entries 3 and 5): an operation that needs a stream byte the host never placed stops by name: the
initial search at one before the first sync byte; the header reader and the WIRE rows at one in the window; the
payload read at one in the payload; the resynchronizer, and a rejected WIRE4 row, at one that no plausible header ends
before. VALIDATE_PAYLOAD stops over bytes that were never read. -/
def Obligations.AbsentBytesStopByName : Prop :=
  ∀ s : State,
    (∀ p, s.cursor.toNat ≤ p → p < s.len → s.stream.read p = none →
      ((∀ a, s.cursor.toNat ≤ a → a < p → s.stream.read a ≠ some 0xA5) →
        exec .seekingSync s = .fault .streamByteAbsent) ∧
      (p < s.cursor.toNat + 12 →
        exec .readHeader s = .fault .streamByteAbsent ∧
        (∀ (id family : Byte) (n d c : U16), exec (.rec10 id family n d c) s = .fault .streamByteAbsent) ∧
        (∀ (id family : Byte) (n : U32) (d c : U16), exec (.rec12 id family n d c) s = .fault .streamByteAbsent)) ∧
      (p < s.cursor.toNat + s.h.dataSize.toNat → s.h.dataSize.toNat ≤ s.len - s.cursor.toNat →
        exec .readPayload s = .fault .streamByteAbsent) ∧
      ((∀ a, s.cursor.toNat ≤ a → a < p → s.Plausible a → p ≤ a + 3) →
        exec .resync s = .fault .streamByteAbsent) ∧
      ((∀ a, s.cursor.toNat < a → a < p → s.Plausible a → p ≤ a + 3) → s.cursor.toNat < p →
        ∀ id family : Byte, s.len ≤ s.cursor.toNat + 3 ∨ family ≠ s.lastFamily →
          exec (.resyncCandidate10 id family) s = .fault .streamByteAbsent ∧
          exec (.resyncCandidate12 id family) s = .fault .streamByteAbsent)) ∧
    (s.pbuf.length < s.h.dataSize.toNat → exec .validatePayload s = .fault .payloadByteAbsent)

/-! ## Whole-machine rules -/

/-- R113: a step of the block, whatever the host has pending after it, takes one of the transitions of the table, or stays in IDLE, DONE, FATAL. -/
def Obligations.TransitionsAreTheTable : Prop :=
  ∀ s t : State, s.BlockNext → step s = .next t →
    (s.state, t.state) ∈ [(ScanState.idle, ScanState.idle), (.done, .done), (.fatal, .fatal),
      (.seekingSync, .readHeader), (.seekingSync, .fatal),
      (.readHeader, .fatal), (.readHeader, .done), (.readHeader, .validateHeader),
      (.validateHeader, .readPayload),
      (.readPayload, .done), (.readPayload, .validatePayload),
      (.validatePayload, .emit), (.validatePayload, .fatal), (.validatePayload, .resync),
      (.resync, .readHeader), (.resync, .done),
      (.emit, .fatal), (.emit, .done), (.emit, .readHeader)]

/-- R40, R53, R181: no instruction but SOFT_RESET writes the stream or the configuration. That none, SOFT_RESET
included, writes the parameters or the host's pending accesses is the model's choice (log entries 1, 2, 19): both are
the model's own fields. -/
def Obligations.BlockNeverWritesItsInputs : Prop :=
  ∀ (i : Instr) (s t : State), exec i s = .next t →
    t.params = s.params ∧ t.host = s.host ∧ (i ≠ .softReset → t.stream = s.stream ∧ t.cfg = s.cfg)

/-- R12: the cursor never moves backwards in a block step and never passes the end of the stream. -/
def Obligations.CursorNeverMovesBack : Prop :=
  ∀ s t : State, s.Inv → s.busy = true → s.BlockNext → step s = .next t →
    s.cursor.toNat ≤ t.cursor.toNat ∧ t.cursor.toNat ≤ s.len ∧ t.hdrStart.toNat ≤ t.cursor.toNat

/-- R15, R16: in a block step `checksum_failures` never decreases and grows by at most 1, only in the two validations, and
the two flags are never cleared; `early_eof` is set only together with the end of the scan at L (R156). -/
def Obligations.StatisticsAreMonotonic : Prop :=
  ∀ s t : State, s.BlockNext → step s = .next t →
    s.checksumFailures.toNat ≤ t.checksumFailures.toNat ∧
    t.checksumFailures.toNat ≤ s.checksumFailures.toNat + 1 ∧
    (t.checksumFailures ≠ s.checksumFailures → s.state = .validateHeader ∨ s.state = .validatePayload) ∧
    (s.earlyEof = true → t.earlyEof = true) ∧ (s.used12 = true → t.used12 = true) ∧
    (t.used12 ≠ s.used12 → s.state = .readHeader ∧ t.h.headerSize = 12) ∧
    (t.earlyEof ≠ s.earlyEof → t.state = .done ∧ t.cursor = s.cfg.streamLen)

/-- R18, R142, R144: only EMIT appends to the index; every step keeps the entries written before. -/
def Obligations.OnlyEmitAppends : Prop :=
  ∀ s t : State, s.BlockNext → step s = .next t →
    (s.state ≠ .emit → t.count = s.count ∧ t.idx = s.idx ∧ t.idxCap = s.idxCap) ∧
    (∀ a, a < 16 * s.count.toNat → t.idx.read a = s.idx.read a)

/-- R122: with `ignore_checksums` on, no block step counts a failure, none goes to RESYNC or raises E_CKSUM_CAP, and a
payload in hand goes to EMIT; the checksums are still computed and latched. -/
def Obligations.IgnoredChecksumsNeverFail : Prop :=
  ∀ s t : State, s.cfg.ignoreChecksums = true → s.BlockNext → step s = .next t →
    t.checksumFailures = s.checksumFailures ∧ (t.state = .resync → s.state = .resync) ∧
    (t.errCode = .cksumCap → s.errCode = .cksumCap) ∧
    (s.state = .validateHeader → t.calcHdrCksum = cksum (s.hbuf.toList.take (s.h.headerSize.toNat - 2)) ∧
      t.log = s.log) ∧
    (s.state = .validatePayload → t.state = .emit ∧ t.log = s.log ∧
      t.calcPayCksum = cksum (s.pbuf.take s.h.dataSize.toNat))

/-- R112, R162, U1 to U3: the arguments `from`, `by` and `debug_level` make no difference to any instruction (SOFT_RESET, which
resets them, apart). -/
def Obligations.UnusedArgumentsMakeNoDifference : Prop :=
  ∀ (i : Instr) (s : State) (fromArg byArg debugLevel : U32), i ≠ .softReset →
    exec i (s.withUnusedArgs fromArg byArg debugLevel) =
      mapNext (fun t => t.withUnusedArgs fromArg byArg debugLevel) (exec i s)

/-- The invariant `State.Inv` (R125, R140, R12, R122) holds after reset, for every admissible parameters. -/
def Obligations.ResetMeetsTheInvariant : Prop :=
  ∀ p : Config.Params, p.Admissible → (State.resetWith p).Inv

/-- R125 items 1 to 7, R140, R12, R122: every step of the machine, of the block and of the host alike, keeps `State.Inv`. -/
def Obligations.StepKeepsInv : Prop :=
  ∀ s t : State, s.Inv → step s = .next t → t.Inv

/-- R125 items 1 to 3 at the end of a scan as well: after a block step of a running scan, terminal or not, the cursor lies in
the stream and the entries are in stream order inside it. -/
def Obligations.ScanKeepsIndexInOrder : Prop :=
  ∀ s t : State, s.Inv → s.busy = true → s.BlockNext → step s = .next t →
    t.cursor.toNat ≤ t.len ∧ t.IndexInOrder t.len ∧
    (t.cfg.ignoreChecksums = true → t.checksumFailures = 0)

/-- R40, R123: from a state that meets the invariant, over a stream that is there, a block step never stops. -/
def Obligations.BlockStepNeverStops : Prop :=
  ∀ s : State, s.Inv → s.StreamLoaded → s.BlockNext → ∃ t : State, step s = .next t

/-- R124: a scan that is running reaches DONE or FATAL within the number of block steps the measure gives. -/
def Obligations.RunningScanTerminates : Prop :=
  ∀ s : State, s.Inv → s.StreamLoaded → s.host = [] → s.busy = true →
    ∃ (k : Nat) (t : State), k ≤ s.stepsLeft ∧ Host.Core.run Sys2Proof.core k s = .next t ∧ t.Terminal

/-- R124: START and at most `5·ceil(L / 10) + 1` block steps end a scan. -/
def Obligations.ScanTerminatesWithinBound : Prop :=
  ∀ s : State, s.Inv → s.StreamLoaded → s.host = [] → s.busy = false → s.cfg.streamPresent = true →
    ∃ t0 : State, exec .start s = .next t0 ∧
      ∃ (k : Nat) (t : State), k ≤ 5 * ((s.len + 9) / 10) + 1 ∧
        Host.Core.run Sys2Proof.core k t0 = .next t ∧ t.Terminal

/-- R123, R126 item 1, R60: a well-formed record at the cursor is read, validated and indexed in five steps. -/
def Obligations.WellFormedRecordIsIndexed : Prop :=
  ∀ (s : State) (r : Record), r.Fits → s.host = [] → s.state = .readHeader → s.StreamLoaded →
    s.Holds s.cursor.toNat r.bytes → s.cursor.toNat + r.bytes.length ≤ s.len →
    s.count.toNat < s.params.indexMax.toNat →
    ∃ t : State, Host.Core.run Sys2Proof.core 5 s = .next t ∧
      t.cursor.toNat = s.cursor.toNat + r.bytes.length ∧ t.hdrStart = s.cursor ∧ t.count.toNat = s.count.toNat + 1 ∧
      t.entryAt s.count.toNat = some
        { offset := match s.params.offsetRef with
            | .payload => BitVec.ofNat 64 (s.cursor.toNat + r.headerSize)
            | .header => s.cursor
          length := BitVec.ofNat 32 r.payload.length, id := r.id, known := known r.id } ∧
      t.checksumFailures = s.checksumFailures ∧ t.earlyEof = s.earlyEof ∧ t.used12 = (s.used12 || r.wide) ∧
      t.lastFamily = r.family ∧
      t.state = if (s.cfg.toArg ≠ 0 ∧ t.count.toNat = s.cfg.toArg.toNat) ∨ t.cursor = s.cfg.streamLen
        then .done else .readHeader

/-- R118, R126 item 2, R100 to R102: a record whose payload differs from the well-formed one in one byte is dropped after four
steps: counted once, nothing indexed, and the resynchronizer starts after the failed payload. -/
def Obligations.CorruptedPayloadIsDropped : Prop :=
  ∀ (s : State) (r : Record) (xs ys : List Byte) (a b : Byte), r.Fits → s.host = [] → s.state = .readHeader →
    s.StreamLoaded → s.cfg.ignoreChecksums = false → r.payload = xs ++ a :: ys → a ≠ b →
    s.Holds s.cursor.toNat (r.covered ++ bytes16 (cksum r.covered) ++ (xs ++ b :: ys)) →
    s.cursor.toNat + r.bytes.length ≤ s.len → s.checksumFailures.toNat < 100 →
    ∃ t : State, Host.Core.run Sys2Proof.core 4 s = .next t ∧
      t.state = .resync ∧ t.cursor.toNat = s.cursor.toNat + r.bytes.length ∧
      t.checksumFailures.toNat = s.checksumFailures.toNat + 1 ∧ t.count = s.count ∧ t.idx = s.idx ∧
      t.lastFamily = r.family ∧ t.log = s.log ++ [(.payloadCksum, s.cursor)]

/-- R123, R126 items 1 and 6, R19: a stream that is one or more well-formed records, with no record-count bound in the way, is
scanned to DONE with exactly one index entry for each record, in order, no failures, no early end, and
`used_12_byte_header` set just when one of them has a 12-byte header. -/
def Obligations.WellFormedStreamRoundTrip : Prop :=
  ∀ (s : State) (rs : List Record), s.busy = false → s.host = [] → s.cfg.streamPresent = true →
    rs ≠ [] → (∀ r ∈ rs, r.Fits) → s.StreamLoaded →
    s.len = (rs.flatMap Record.bytes).length → s.Holds 0 (rs.flatMap Record.bytes) →
    rs.length ≤ s.params.indexMax.toNat → (s.cfg.toArg = 0 ∨ rs.length ≤ s.cfg.toArg.toNat) →
    ∃ t0 t : State, exec .start s = .next t0 ∧
      Host.Core.run Sys2Proof.core (5 * rs.length + 1) t0 = .next t ∧
      t.result = some (.ok (indexOf s.params.offsetRef 0 rs) 0 false (rs.any Record.wide))
end

