-- ==== Sys2Proof/Laws/State.lean ====
section
/-! SUPPORT. What each named update of the state does to each field: one lemma a field and update, true by definition,
so that no later proof unfolds a record update. -/

namespace Sys2Proof.Machine

/-! ### logEvent -/

@[simp] theorem State.logEvent_params (s : State) (k : LogKind) (o : U64) : (s.logEvent k o).params = s.params := rfl
@[simp] theorem State.logEvent_host (s : State) (k : LogKind) (o : U64) : (s.logEvent k o).host = s.host := rfl
@[simp] theorem State.logEvent_hostData (s : State) (k : LogKind) (o : U64) : (s.logEvent k o).hostData = s.hostData := rfl
@[simp] theorem State.logEvent_state (s : State) (k : LogKind) (o : U64) : (s.logEvent k o).state = s.state := rfl
@[simp] theorem State.logEvent_cursor (s : State) (k : LogKind) (o : U64) : (s.logEvent k o).cursor = s.cursor := rfl
@[simp] theorem State.logEvent_hdrStart (s : State) (k : LogKind) (o : U64) : (s.logEvent k o).hdrStart = s.hdrStart := rfl
@[simp] theorem State.logEvent_payloadStart (s : State) (k : LogKind) (o : U64) : (s.logEvent k o).payloadStart = s.payloadStart := rfl
@[simp] theorem State.logEvent_hbuf (s : State) (k : LogKind) (o : U64) : (s.logEvent k o).hbuf = s.hbuf := rfl
@[simp] theorem State.logEvent_h (s : State) (k : LogKind) (o : U64) : (s.logEvent k o).h = s.h := rfl
@[simp] theorem State.logEvent_lastFamily (s : State) (k : LogKind) (o : U64) : (s.logEvent k o).lastFamily = s.lastFamily := rfl
@[simp] theorem State.logEvent_checksumFailures (s : State) (k : LogKind) (o : U64) : (s.logEvent k o).checksumFailures = s.checksumFailures := rfl
@[simp] theorem State.logEvent_earlyEof (s : State) (k : LogKind) (o : U64) : (s.logEvent k o).earlyEof = s.earlyEof := rfl
@[simp] theorem State.logEvent_used12 (s : State) (k : LogKind) (o : U64) : (s.logEvent k o).used12 = s.used12 := rfl
@[simp] theorem State.logEvent_count (s : State) (k : LogKind) (o : U64) : (s.logEvent k o).count = s.count := rfl
@[simp] theorem State.logEvent_idxCap (s : State) (k : LogKind) (o : U64) : (s.logEvent k o).idxCap = s.idxCap := rfl
@[simp] theorem State.logEvent_idx (s : State) (k : LogKind) (o : U64) : (s.logEvent k o).idx = s.idx := rfl
@[simp] theorem State.logEvent_pbuf (s : State) (k : LogKind) (o : U64) : (s.logEvent k o).pbuf = s.pbuf := rfl
@[simp] theorem State.logEvent_pbufCap (s : State) (k : LogKind) (o : U64) : (s.logEvent k o).pbufCap = s.pbufCap := rfl
@[simp] theorem State.logEvent_calcHdrCksum (s : State) (k : LogKind) (o : U64) : (s.logEvent k o).calcHdrCksum = s.calcHdrCksum := rfl
@[simp] theorem State.logEvent_calcPayCksum (s : State) (k : LogKind) (o : U64) : (s.logEvent k o).calcPayCksum = s.calcPayCksum := rfl
@[simp] theorem State.logEvent_cksumOut (s : State) (k : LogKind) (o : U64) : (s.logEvent k o).cksumOut = s.cksumOut := rfl
@[simp] theorem State.logEvent_errCode (s : State) (k : LogKind) (o : U64) : (s.logEvent k o).errCode = s.errCode := rfl
@[simp] theorem State.logEvent_errOffset (s : State) (k : LogKind) (o : U64) : (s.logEvent k o).errOffset = s.errOffset := rfl
@[simp] theorem State.logEvent_log (s : State) (k : LogKind) (o : U64) : (s.logEvent k o).log = s.log ++ [(k, o)] := rfl
@[simp] theorem State.logEvent_cfg (s : State) (k : LogKind) (o : U64) : (s.logEvent k o).cfg = s.cfg := rfl
@[simp] theorem State.logEvent_stream (s : State) (k : LogKind) (o : U64) : (s.logEvent k o).stream = s.stream := rfl

/-! ### raiseFatal -/

@[simp] theorem State.raiseFatal_params (s : State) (c : ErrCode) (o : U64) : (s.raiseFatal c o).params = s.params := rfl
@[simp] theorem State.raiseFatal_host (s : State) (c : ErrCode) (o : U64) : (s.raiseFatal c o).host = s.host := rfl
@[simp] theorem State.raiseFatal_hostData (s : State) (c : ErrCode) (o : U64) : (s.raiseFatal c o).hostData = s.hostData := rfl
@[simp] theorem State.raiseFatal_state (s : State) (c : ErrCode) (o : U64) : (s.raiseFatal c o).state = .fatal := rfl
@[simp] theorem State.raiseFatal_cursor (s : State) (c : ErrCode) (o : U64) : (s.raiseFatal c o).cursor = s.cursor := rfl
@[simp] theorem State.raiseFatal_hdrStart (s : State) (c : ErrCode) (o : U64) : (s.raiseFatal c o).hdrStart = s.hdrStart := rfl
@[simp] theorem State.raiseFatal_payloadStart (s : State) (c : ErrCode) (o : U64) : (s.raiseFatal c o).payloadStart = s.payloadStart := rfl
@[simp] theorem State.raiseFatal_hbuf (s : State) (c : ErrCode) (o : U64) : (s.raiseFatal c o).hbuf = s.hbuf := rfl
@[simp] theorem State.raiseFatal_h (s : State) (c : ErrCode) (o : U64) : (s.raiseFatal c o).h = s.h := rfl
@[simp] theorem State.raiseFatal_lastFamily (s : State) (c : ErrCode) (o : U64) : (s.raiseFatal c o).lastFamily = s.lastFamily := rfl
@[simp] theorem State.raiseFatal_checksumFailures (s : State) (c : ErrCode) (o : U64) : (s.raiseFatal c o).checksumFailures = s.checksumFailures := rfl
@[simp] theorem State.raiseFatal_earlyEof (s : State) (c : ErrCode) (o : U64) : (s.raiseFatal c o).earlyEof = s.earlyEof := rfl
@[simp] theorem State.raiseFatal_used12 (s : State) (c : ErrCode) (o : U64) : (s.raiseFatal c o).used12 = s.used12 := rfl
@[simp] theorem State.raiseFatal_count (s : State) (c : ErrCode) (o : U64) : (s.raiseFatal c o).count = s.count := rfl
@[simp] theorem State.raiseFatal_idxCap (s : State) (c : ErrCode) (o : U64) : (s.raiseFatal c o).idxCap = s.idxCap := rfl
@[simp] theorem State.raiseFatal_idx (s : State) (c : ErrCode) (o : U64) : (s.raiseFatal c o).idx = s.idx := rfl
@[simp] theorem State.raiseFatal_pbuf (s : State) (c : ErrCode) (o : U64) : (s.raiseFatal c o).pbuf = s.pbuf := rfl
@[simp] theorem State.raiseFatal_pbufCap (s : State) (c : ErrCode) (o : U64) : (s.raiseFatal c o).pbufCap = s.pbufCap := rfl
@[simp] theorem State.raiseFatal_calcHdrCksum (s : State) (c : ErrCode) (o : U64) : (s.raiseFatal c o).calcHdrCksum = s.calcHdrCksum := rfl
@[simp] theorem State.raiseFatal_calcPayCksum (s : State) (c : ErrCode) (o : U64) : (s.raiseFatal c o).calcPayCksum = s.calcPayCksum := rfl
@[simp] theorem State.raiseFatal_cksumOut (s : State) (c : ErrCode) (o : U64) : (s.raiseFatal c o).cksumOut = s.cksumOut := rfl
@[simp] theorem State.raiseFatal_errCode (s : State) (c : ErrCode) (o : U64) : (s.raiseFatal c o).errCode = c := rfl
@[simp] theorem State.raiseFatal_errOffset (s : State) (c : ErrCode) (o : U64) : (s.raiseFatal c o).errOffset = o := rfl
@[simp] theorem State.raiseFatal_log (s : State) (c : ErrCode) (o : U64) : (s.raiseFatal c o).log = s.log := rfl
@[simp] theorem State.raiseFatal_cfg (s : State) (c : ErrCode) (o : U64) : (s.raiseFatal c o).cfg = s.cfg := rfl
@[simp] theorem State.raiseFatal_stream (s : State) (c : ErrCode) (o : U64) : (s.raiseFatal c o).stream = s.stream := rfl

/-! ### beginScan -/

@[simp] theorem State.beginScan_params (s : State) : (s.beginScan).params = s.params := rfl
@[simp] theorem State.beginScan_host (s : State) : (s.beginScan).host = s.host := rfl
@[simp] theorem State.beginScan_hostData (s : State) : (s.beginScan).hostData = s.hostData := rfl
@[simp] theorem State.beginScan_state (s : State) : (s.beginScan).state = s.state := rfl
@[simp] theorem State.beginScan_cursor (s : State) : (s.beginScan).cursor = 0 := rfl
@[simp] theorem State.beginScan_hdrStart (s : State) : (s.beginScan).hdrStart = 0 := rfl
@[simp] theorem State.beginScan_payloadStart (s : State) : (s.beginScan).payloadStart = 0 := rfl
@[simp] theorem State.beginScan_hbuf (s : State) : (s.beginScan).hbuf = Window.zero := rfl
@[simp] theorem State.beginScan_h (s : State) : (s.beginScan).h = headerZero := rfl
@[simp] theorem State.beginScan_lastFamily (s : State) : (s.beginScan).lastFamily = Config.familyNominal := rfl
@[simp] theorem State.beginScan_checksumFailures (s : State) : (s.beginScan).checksumFailures = 0 := rfl
@[simp] theorem State.beginScan_earlyEof (s : State) : (s.beginScan).earlyEof = false := rfl
@[simp] theorem State.beginScan_used12 (s : State) : (s.beginScan).used12 = false := rfl
@[simp] theorem State.beginScan_count (s : State) : (s.beginScan).count = 0 := rfl
@[simp] theorem State.beginScan_idxCap (s : State) : (s.beginScan).idxCap = s.params.indexCap0 := rfl
@[simp] theorem State.beginScan_idx (s : State) : (s.beginScan).idx = [] := rfl
@[simp] theorem State.beginScan_pbuf (s : State) : (s.beginScan).pbuf = [] := rfl
@[simp] theorem State.beginScan_pbufCap (s : State) : (s.beginScan).pbufCap = 0 := rfl
@[simp] theorem State.beginScan_calcHdrCksum (s : State) : (s.beginScan).calcHdrCksum = 0 := rfl
@[simp] theorem State.beginScan_calcPayCksum (s : State) : (s.beginScan).calcPayCksum = 0 := rfl
@[simp] theorem State.beginScan_cksumOut (s : State) : (s.beginScan).cksumOut = 0 := rfl
@[simp] theorem State.beginScan_errCode (s : State) : (s.beginScan).errCode = .none := rfl
@[simp] theorem State.beginScan_errOffset (s : State) : (s.beginScan).errOffset = 0 := rfl
@[simp] theorem State.beginScan_log (s : State) : (s.beginScan).log = [] := rfl
@[simp] theorem State.beginScan_cfg (s : State) : (s.beginScan).cfg = s.cfg := rfl
@[simp] theorem State.beginScan_stream (s : State) : (s.beginScan).stream = s.stream := rfl

/-! ### resetBlock -/

@[simp] theorem State.resetBlock_params (s : State) : (s.resetBlock).params = s.params := rfl
@[simp] theorem State.resetBlock_host (s : State) : (s.resetBlock).host = s.host := rfl
@[simp] theorem State.resetBlock_hostData (s : State) : (s.resetBlock).hostData = s.hostData := rfl
@[simp] theorem State.resetBlock_state (s : State) : (s.resetBlock).state = .idle := rfl
@[simp] theorem State.resetBlock_cursor (s : State) : (s.resetBlock).cursor = 0 := rfl
@[simp] theorem State.resetBlock_hdrStart (s : State) : (s.resetBlock).hdrStart = 0 := rfl
@[simp] theorem State.resetBlock_payloadStart (s : State) : (s.resetBlock).payloadStart = 0 := rfl
@[simp] theorem State.resetBlock_hbuf (s : State) : (s.resetBlock).hbuf = Window.zero := rfl
@[simp] theorem State.resetBlock_h (s : State) : (s.resetBlock).h = headerZero := rfl
@[simp] theorem State.resetBlock_lastFamily (s : State) : (s.resetBlock).lastFamily = Config.familyNominal := rfl
@[simp] theorem State.resetBlock_checksumFailures (s : State) : (s.resetBlock).checksumFailures = 0 := rfl
@[simp] theorem State.resetBlock_earlyEof (s : State) : (s.resetBlock).earlyEof = false := rfl
@[simp] theorem State.resetBlock_used12 (s : State) : (s.resetBlock).used12 = false := rfl
@[simp] theorem State.resetBlock_count (s : State) : (s.resetBlock).count = 0 := rfl
@[simp] theorem State.resetBlock_idxCap (s : State) : (s.resetBlock).idxCap = s.params.indexCap0 := rfl
@[simp] theorem State.resetBlock_idx (s : State) : (s.resetBlock).idx = [] := rfl
@[simp] theorem State.resetBlock_pbuf (s : State) : (s.resetBlock).pbuf = [] := rfl
@[simp] theorem State.resetBlock_pbufCap (s : State) : (s.resetBlock).pbufCap = 0 := rfl
@[simp] theorem State.resetBlock_calcHdrCksum (s : State) : (s.resetBlock).calcHdrCksum = 0 := rfl
@[simp] theorem State.resetBlock_calcPayCksum (s : State) : (s.resetBlock).calcPayCksum = 0 := rfl
@[simp] theorem State.resetBlock_cksumOut (s : State) : (s.resetBlock).cksumOut = 0 := rfl
@[simp] theorem State.resetBlock_errCode (s : State) : (s.resetBlock).errCode = .none := rfl
@[simp] theorem State.resetBlock_errOffset (s : State) : (s.resetBlock).errOffset = 0 := rfl
@[simp] theorem State.resetBlock_log (s : State) : (s.resetBlock).log = [] := rfl
@[simp] theorem State.resetBlock_cfg (s : State) : (s.resetBlock).cfg = Cfg.reset := rfl
@[simp] theorem State.resetBlock_stream (s : State) : (s.resetBlock).stream = [] := rfl

/-! ### endEarly -/

@[simp] theorem State.endEarly_params (s : State) (k : LogKind) (o : U64) : (s.endEarly k o).params = s.params := rfl
@[simp] theorem State.endEarly_host (s : State) (k : LogKind) (o : U64) : (s.endEarly k o).host = s.host := rfl
@[simp] theorem State.endEarly_hostData (s : State) (k : LogKind) (o : U64) : (s.endEarly k o).hostData = s.hostData := rfl
@[simp] theorem State.endEarly_state (s : State) (k : LogKind) (o : U64) : (s.endEarly k o).state = .done := rfl
@[simp] theorem State.endEarly_cursor (s : State) (k : LogKind) (o : U64) : (s.endEarly k o).cursor = s.cfg.streamLen := rfl
@[simp] theorem State.endEarly_hdrStart (s : State) (k : LogKind) (o : U64) : (s.endEarly k o).hdrStart = s.hdrStart := rfl
@[simp] theorem State.endEarly_payloadStart (s : State) (k : LogKind) (o : U64) : (s.endEarly k o).payloadStart = s.payloadStart := rfl
@[simp] theorem State.endEarly_hbuf (s : State) (k : LogKind) (o : U64) : (s.endEarly k o).hbuf = s.hbuf := rfl
@[simp] theorem State.endEarly_h (s : State) (k : LogKind) (o : U64) : (s.endEarly k o).h = s.h := rfl
@[simp] theorem State.endEarly_lastFamily (s : State) (k : LogKind) (o : U64) : (s.endEarly k o).lastFamily = s.lastFamily := rfl
@[simp] theorem State.endEarly_checksumFailures (s : State) (k : LogKind) (o : U64) : (s.endEarly k o).checksumFailures = s.checksumFailures := rfl
@[simp] theorem State.endEarly_earlyEof (s : State) (k : LogKind) (o : U64) : (s.endEarly k o).earlyEof = true := rfl
@[simp] theorem State.endEarly_used12 (s : State) (k : LogKind) (o : U64) : (s.endEarly k o).used12 = s.used12 := rfl
@[simp] theorem State.endEarly_count (s : State) (k : LogKind) (o : U64) : (s.endEarly k o).count = s.count := rfl
@[simp] theorem State.endEarly_idxCap (s : State) (k : LogKind) (o : U64) : (s.endEarly k o).idxCap = s.idxCap := rfl
@[simp] theorem State.endEarly_idx (s : State) (k : LogKind) (o : U64) : (s.endEarly k o).idx = s.idx := rfl
@[simp] theorem State.endEarly_pbuf (s : State) (k : LogKind) (o : U64) : (s.endEarly k o).pbuf = s.pbuf := rfl
@[simp] theorem State.endEarly_pbufCap (s : State) (k : LogKind) (o : U64) : (s.endEarly k o).pbufCap = s.pbufCap := rfl
@[simp] theorem State.endEarly_calcHdrCksum (s : State) (k : LogKind) (o : U64) : (s.endEarly k o).calcHdrCksum = s.calcHdrCksum := rfl
@[simp] theorem State.endEarly_calcPayCksum (s : State) (k : LogKind) (o : U64) : (s.endEarly k o).calcPayCksum = s.calcPayCksum := rfl
@[simp] theorem State.endEarly_cksumOut (s : State) (k : LogKind) (o : U64) : (s.endEarly k o).cksumOut = s.cksumOut := rfl
@[simp] theorem State.endEarly_errCode (s : State) (k : LogKind) (o : U64) : (s.endEarly k o).errCode = s.errCode := rfl
@[simp] theorem State.endEarly_errOffset (s : State) (k : LogKind) (o : U64) : (s.endEarly k o).errOffset = s.errOffset := rfl
@[simp] theorem State.endEarly_log (s : State) (k : LogKind) (o : U64) : (s.endEarly k o).log = s.log ++ [(k, o)] := rfl
@[simp] theorem State.endEarly_cfg (s : State) (k : LogKind) (o : U64) : (s.endEarly k o).cfg = s.cfg := rfl
@[simp] theorem State.endEarly_stream (s : State) (k : LogKind) (o : U64) : (s.endEarly k o).stream = s.stream := rfl

/-! ### loadWindow -/

@[simp] theorem State.loadWindow_params (s : State) (bs : List Byte) : (s.loadWindow bs).params = s.params := rfl
@[simp] theorem State.loadWindow_host (s : State) (bs : List Byte) : (s.loadWindow bs).host = s.host := rfl
@[simp] theorem State.loadWindow_hostData (s : State) (bs : List Byte) : (s.loadWindow bs).hostData = s.hostData := rfl
@[simp] theorem State.loadWindow_state (s : State) (bs : List Byte) : (s.loadWindow bs).state = s.state := rfl
@[simp] theorem State.loadWindow_cursor (s : State) (bs : List Byte) : (s.loadWindow bs).cursor = s.cursor := rfl
@[simp] theorem State.loadWindow_hdrStart (s : State) (bs : List Byte) : (s.loadWindow bs).hdrStart = s.cursor := rfl
@[simp] theorem State.loadWindow_payloadStart (s : State) (bs : List Byte) : (s.loadWindow bs).payloadStart = s.payloadStart := rfl
@[simp] theorem State.loadWindow_hbuf (s : State) (bs : List Byte) : (s.loadWindow bs).hbuf = Window.ofBytes bs := rfl
@[simp] theorem State.loadWindow_h (s : State) (bs : List Byte) : (s.loadWindow bs).h = s.h := rfl
@[simp] theorem State.loadWindow_lastFamily (s : State) (bs : List Byte) : (s.loadWindow bs).lastFamily = s.lastFamily := rfl
@[simp] theorem State.loadWindow_checksumFailures (s : State) (bs : List Byte) : (s.loadWindow bs).checksumFailures = s.checksumFailures := rfl
@[simp] theorem State.loadWindow_earlyEof (s : State) (bs : List Byte) : (s.loadWindow bs).earlyEof = s.earlyEof := rfl
@[simp] theorem State.loadWindow_used12 (s : State) (bs : List Byte) : (s.loadWindow bs).used12 = s.used12 := rfl
@[simp] theorem State.loadWindow_count (s : State) (bs : List Byte) : (s.loadWindow bs).count = s.count := rfl
@[simp] theorem State.loadWindow_idxCap (s : State) (bs : List Byte) : (s.loadWindow bs).idxCap = s.idxCap := rfl
@[simp] theorem State.loadWindow_idx (s : State) (bs : List Byte) : (s.loadWindow bs).idx = s.idx := rfl
@[simp] theorem State.loadWindow_pbuf (s : State) (bs : List Byte) : (s.loadWindow bs).pbuf = s.pbuf := rfl
@[simp] theorem State.loadWindow_pbufCap (s : State) (bs : List Byte) : (s.loadWindow bs).pbufCap = s.pbufCap := rfl
@[simp] theorem State.loadWindow_calcHdrCksum (s : State) (bs : List Byte) : (s.loadWindow bs).calcHdrCksum = s.calcHdrCksum := rfl
@[simp] theorem State.loadWindow_calcPayCksum (s : State) (bs : List Byte) : (s.loadWindow bs).calcPayCksum = s.calcPayCksum := rfl
@[simp] theorem State.loadWindow_cksumOut (s : State) (bs : List Byte) : (s.loadWindow bs).cksumOut = s.cksumOut := rfl
@[simp] theorem State.loadWindow_errCode (s : State) (bs : List Byte) : (s.loadWindow bs).errCode = s.errCode := rfl
@[simp] theorem State.loadWindow_errOffset (s : State) (bs : List Byte) : (s.loadWindow bs).errOffset = s.errOffset := rfl
@[simp] theorem State.loadWindow_log (s : State) (bs : List Byte) : (s.loadWindow bs).log = s.log := rfl
@[simp] theorem State.loadWindow_cfg (s : State) (bs : List Byte) : (s.loadWindow bs).cfg = s.cfg := rfl
@[simp] theorem State.loadWindow_stream (s : State) (bs : List Byte) : (s.loadWindow bs).stream = s.stream := rfl

/-! ### acceptHeader -/

@[simp] theorem State.acceptHeader_params (s : State) (h : Header) : (s.acceptHeader h).params = s.params := rfl
@[simp] theorem State.acceptHeader_host (s : State) (h : Header) : (s.acceptHeader h).host = s.host := rfl
@[simp] theorem State.acceptHeader_hostData (s : State) (h : Header) : (s.acceptHeader h).hostData = s.hostData := rfl
@[simp] theorem State.acceptHeader_state (s : State) (h : Header) : (s.acceptHeader h).state = .validateHeader := rfl
@[simp] theorem State.acceptHeader_cursor (s : State) (h : Header) : (s.acceptHeader h).cursor = u64 (s.hdrStart.toNat + h.headerSize.toNat) := rfl
@[simp] theorem State.acceptHeader_hdrStart (s : State) (h : Header) : (s.acceptHeader h).hdrStart = s.hdrStart := rfl
@[simp] theorem State.acceptHeader_payloadStart (s : State) (h : Header) : (s.acceptHeader h).payloadStart = s.payloadStart := rfl
@[simp] theorem State.acceptHeader_hbuf (s : State) (h : Header) : (s.acceptHeader h).hbuf = s.hbuf := rfl
@[simp] theorem State.acceptHeader_h (s : State) (h : Header) : (s.acceptHeader h).h = h := rfl
@[simp] theorem State.acceptHeader_lastFamily (s : State) (h : Header) : (s.acceptHeader h).lastFamily = h.family := rfl
@[simp] theorem State.acceptHeader_checksumFailures (s : State) (h : Header) : (s.acceptHeader h).checksumFailures = s.checksumFailures := rfl
@[simp] theorem State.acceptHeader_earlyEof (s : State) (h : Header) : (s.acceptHeader h).earlyEof = s.earlyEof := rfl
@[simp] theorem State.acceptHeader_used12 (s : State) (h : Header) : (s.acceptHeader h).used12 = (s.used12 || h.headerSize == Config.hs12) := rfl
@[simp] theorem State.acceptHeader_count (s : State) (h : Header) : (s.acceptHeader h).count = s.count := rfl
@[simp] theorem State.acceptHeader_idxCap (s : State) (h : Header) : (s.acceptHeader h).idxCap = s.idxCap := rfl
@[simp] theorem State.acceptHeader_idx (s : State) (h : Header) : (s.acceptHeader h).idx = s.idx := rfl
@[simp] theorem State.acceptHeader_pbuf (s : State) (h : Header) : (s.acceptHeader h).pbuf = s.pbuf := rfl
@[simp] theorem State.acceptHeader_pbufCap (s : State) (h : Header) : (s.acceptHeader h).pbufCap = s.pbufCap := rfl
@[simp] theorem State.acceptHeader_calcHdrCksum (s : State) (h : Header) : (s.acceptHeader h).calcHdrCksum = s.calcHdrCksum := rfl
@[simp] theorem State.acceptHeader_calcPayCksum (s : State) (h : Header) : (s.acceptHeader h).calcPayCksum = s.calcPayCksum := rfl
@[simp] theorem State.acceptHeader_cksumOut (s : State) (h : Header) : (s.acceptHeader h).cksumOut = s.cksumOut := rfl
@[simp] theorem State.acceptHeader_errCode (s : State) (h : Header) : (s.acceptHeader h).errCode = s.errCode := rfl
@[simp] theorem State.acceptHeader_errOffset (s : State) (h : Header) : (s.acceptHeader h).errOffset = s.errOffset := rfl
@[simp] theorem State.acceptHeader_log (s : State) (h : Header) : (s.acceptHeader h).log = s.log := rfl
@[simp] theorem State.acceptHeader_cfg (s : State) (h : Header) : (s.acceptHeader h).cfg = s.cfg := rfl
@[simp] theorem State.acceptHeader_stream (s : State) (h : Header) : (s.acceptHeader h).stream = s.stream := rfl

/-! ### idxGrow -/

@[simp] theorem State.idxGrow_params (s : State) : (s.idxGrow).params = s.params := rfl
@[simp] theorem State.idxGrow_host (s : State) : (s.idxGrow).host = s.host := rfl
@[simp] theorem State.idxGrow_hostData (s : State) : (s.idxGrow).hostData = s.hostData := rfl
@[simp] theorem State.idxGrow_state (s : State) : (s.idxGrow).state = s.state := rfl
@[simp] theorem State.idxGrow_cursor (s : State) : (s.idxGrow).cursor = s.cursor := rfl
@[simp] theorem State.idxGrow_hdrStart (s : State) : (s.idxGrow).hdrStart = s.hdrStart := rfl
@[simp] theorem State.idxGrow_payloadStart (s : State) : (s.idxGrow).payloadStart = s.payloadStart := rfl
@[simp] theorem State.idxGrow_hbuf (s : State) : (s.idxGrow).hbuf = s.hbuf := rfl
@[simp] theorem State.idxGrow_h (s : State) : (s.idxGrow).h = s.h := rfl
@[simp] theorem State.idxGrow_lastFamily (s : State) : (s.idxGrow).lastFamily = s.lastFamily := rfl
@[simp] theorem State.idxGrow_checksumFailures (s : State) : (s.idxGrow).checksumFailures = s.checksumFailures := rfl
@[simp] theorem State.idxGrow_earlyEof (s : State) : (s.idxGrow).earlyEof = s.earlyEof := rfl
@[simp] theorem State.idxGrow_used12 (s : State) : (s.idxGrow).used12 = s.used12 := rfl
@[simp] theorem State.idxGrow_count (s : State) : (s.idxGrow).count = s.count := rfl
@[simp] theorem State.idxGrow_idxCap (s : State) : (s.idxGrow).idxCap = if s.count = s.idxCap then u64 (min s.params.indexMax.toNat (s.idxCap.toNat * Config.idxFactor)) else s.idxCap := rfl
@[simp] theorem State.idxGrow_idx (s : State) : (s.idxGrow).idx = s.idx := rfl
@[simp] theorem State.idxGrow_pbuf (s : State) : (s.idxGrow).pbuf = s.pbuf := rfl
@[simp] theorem State.idxGrow_pbufCap (s : State) : (s.idxGrow).pbufCap = s.pbufCap := rfl
@[simp] theorem State.idxGrow_calcHdrCksum (s : State) : (s.idxGrow).calcHdrCksum = s.calcHdrCksum := rfl
@[simp] theorem State.idxGrow_calcPayCksum (s : State) : (s.idxGrow).calcPayCksum = s.calcPayCksum := rfl
@[simp] theorem State.idxGrow_cksumOut (s : State) : (s.idxGrow).cksumOut = s.cksumOut := rfl
@[simp] theorem State.idxGrow_errCode (s : State) : (s.idxGrow).errCode = s.errCode := rfl
@[simp] theorem State.idxGrow_errOffset (s : State) : (s.idxGrow).errOffset = s.errOffset := rfl
@[simp] theorem State.idxGrow_log (s : State) : (s.idxGrow).log = s.log := rfl
@[simp] theorem State.idxGrow_cfg (s : State) : (s.idxGrow).cfg = s.cfg := rfl
@[simp] theorem State.idxGrow_stream (s : State) : (s.idxGrow).stream = s.stream := rfl

/-! ### idxAppend -/

@[simp] theorem State.idxAppend_params (s : State) (o : U64) (n : U32) (i : Byte) (k : Bool) : (s.idxAppend o n i k).params = s.params := rfl
@[simp] theorem State.idxAppend_host (s : State) (o : U64) (n : U32) (i : Byte) (k : Bool) : (s.idxAppend o n i k).host = s.host := rfl
@[simp] theorem State.idxAppend_hostData (s : State) (o : U64) (n : U32) (i : Byte) (k : Bool) : (s.idxAppend o n i k).hostData = s.hostData := rfl
@[simp] theorem State.idxAppend_state (s : State) (o : U64) (n : U32) (i : Byte) (k : Bool) : (s.idxAppend o n i k).state = s.state := rfl
@[simp] theorem State.idxAppend_cursor (s : State) (o : U64) (n : U32) (i : Byte) (k : Bool) : (s.idxAppend o n i k).cursor = s.cursor := rfl
@[simp] theorem State.idxAppend_hdrStart (s : State) (o : U64) (n : U32) (i : Byte) (k : Bool) : (s.idxAppend o n i k).hdrStart = s.hdrStart := rfl
@[simp] theorem State.idxAppend_payloadStart (s : State) (o : U64) (n : U32) (i : Byte) (k : Bool) : (s.idxAppend o n i k).payloadStart = s.payloadStart := rfl
@[simp] theorem State.idxAppend_hbuf (s : State) (o : U64) (n : U32) (i : Byte) (k : Bool) : (s.idxAppend o n i k).hbuf = s.hbuf := rfl
@[simp] theorem State.idxAppend_h (s : State) (o : U64) (n : U32) (i : Byte) (k : Bool) : (s.idxAppend o n i k).h = s.h := rfl
@[simp] theorem State.idxAppend_lastFamily (s : State) (o : U64) (n : U32) (i : Byte) (k : Bool) : (s.idxAppend o n i k).lastFamily = s.lastFamily := rfl
@[simp] theorem State.idxAppend_checksumFailures (s : State) (o : U64) (n : U32) (i : Byte) (k : Bool) : (s.idxAppend o n i k).checksumFailures = s.checksumFailures := rfl
@[simp] theorem State.idxAppend_earlyEof (s : State) (o : U64) (n : U32) (i : Byte) (k : Bool) : (s.idxAppend o n i k).earlyEof = s.earlyEof := rfl
@[simp] theorem State.idxAppend_used12 (s : State) (o : U64) (n : U32) (i : Byte) (k : Bool) : (s.idxAppend o n i k).used12 = s.used12 := rfl
@[simp] theorem State.idxAppend_count (s : State) (o : U64) (n : U32) (i : Byte) (k : Bool) : (s.idxAppend o n i k).count = u64 (s.count.toNat + 1) := rfl
@[simp] theorem State.idxAppend_idxCap (s : State) (o : U64) (n : U32) (i : Byte) (k : Bool) : (s.idxAppend o n i k).idxCap = s.idxGrow.idxCap := rfl
@[simp] theorem State.idxAppend_idx (s : State) (o : U64) (n : U32) (i : Byte) (k : Bool) : (s.idxAppend o n i k).idx = s.idx.writeBytes (16 * s.count.toNat) (entryBytes o n i k) := rfl
@[simp] theorem State.idxAppend_pbuf (s : State) (o : U64) (n : U32) (i : Byte) (k : Bool) : (s.idxAppend o n i k).pbuf = s.pbuf := rfl
@[simp] theorem State.idxAppend_pbufCap (s : State) (o : U64) (n : U32) (i : Byte) (k : Bool) : (s.idxAppend o n i k).pbufCap = s.pbufCap := rfl
@[simp] theorem State.idxAppend_calcHdrCksum (s : State) (o : U64) (n : U32) (i : Byte) (k : Bool) : (s.idxAppend o n i k).calcHdrCksum = s.calcHdrCksum := rfl
@[simp] theorem State.idxAppend_calcPayCksum (s : State) (o : U64) (n : U32) (i : Byte) (k : Bool) : (s.idxAppend o n i k).calcPayCksum = s.calcPayCksum := rfl
@[simp] theorem State.idxAppend_cksumOut (s : State) (o : U64) (n : U32) (i : Byte) (k : Bool) : (s.idxAppend o n i k).cksumOut = s.cksumOut := rfl
@[simp] theorem State.idxAppend_errCode (s : State) (o : U64) (n : U32) (i : Byte) (k : Bool) : (s.idxAppend o n i k).errCode = s.errCode := rfl
@[simp] theorem State.idxAppend_errOffset (s : State) (o : U64) (n : U32) (i : Byte) (k : Bool) : (s.idxAppend o n i k).errOffset = s.errOffset := rfl
@[simp] theorem State.idxAppend_log (s : State) (o : U64) (n : U32) (i : Byte) (k : Bool) : (s.idxAppend o n i k).log = s.log := rfl
@[simp] theorem State.idxAppend_cfg (s : State) (o : U64) (n : U32) (i : Byte) (k : Bool) : (s.idxAppend o n i k).cfg = s.cfg := rfl
@[simp] theorem State.idxAppend_stream (s : State) (o : U64) (n : U32) (i : Byte) (k : Bool) : (s.idxAppend o n i k).stream = s.stream := rfl

/-! ### growPbuf -/

@[simp] theorem State.growPbuf_params (s : State) : (s.growPbuf).params = s.params := rfl
@[simp] theorem State.growPbuf_host (s : State) : (s.growPbuf).host = s.host := rfl
@[simp] theorem State.growPbuf_hostData (s : State) : (s.growPbuf).hostData = s.hostData := rfl
@[simp] theorem State.growPbuf_state (s : State) : (s.growPbuf).state = s.state := rfl
@[simp] theorem State.growPbuf_cursor (s : State) : (s.growPbuf).cursor = s.cursor := rfl
@[simp] theorem State.growPbuf_hdrStart (s : State) : (s.growPbuf).hdrStart = s.hdrStart := rfl
@[simp] theorem State.growPbuf_payloadStart (s : State) : (s.growPbuf).payloadStart = s.payloadStart := rfl
@[simp] theorem State.growPbuf_hbuf (s : State) : (s.growPbuf).hbuf = s.hbuf := rfl
@[simp] theorem State.growPbuf_h (s : State) : (s.growPbuf).h = s.h := rfl
@[simp] theorem State.growPbuf_lastFamily (s : State) : (s.growPbuf).lastFamily = s.lastFamily := rfl
@[simp] theorem State.growPbuf_checksumFailures (s : State) : (s.growPbuf).checksumFailures = s.checksumFailures := rfl
@[simp] theorem State.growPbuf_earlyEof (s : State) : (s.growPbuf).earlyEof = s.earlyEof := rfl
@[simp] theorem State.growPbuf_used12 (s : State) : (s.growPbuf).used12 = s.used12 := rfl
@[simp] theorem State.growPbuf_count (s : State) : (s.growPbuf).count = s.count := rfl
@[simp] theorem State.growPbuf_idxCap (s : State) : (s.growPbuf).idxCap = s.idxCap := rfl
@[simp] theorem State.growPbuf_idx (s : State) : (s.growPbuf).idx = s.idx := rfl
@[simp] theorem State.growPbuf_pbuf (s : State) : (s.growPbuf).pbuf = s.pbuf := rfl
@[simp] theorem State.growPbuf_pbufCap (s : State) : (s.growPbuf).pbufCap = if s.pbufCap.toNat < s.h.dataSize.toNat then s.h.dataSize else s.pbufCap := rfl
@[simp] theorem State.growPbuf_calcHdrCksum (s : State) : (s.growPbuf).calcHdrCksum = s.calcHdrCksum := rfl
@[simp] theorem State.growPbuf_calcPayCksum (s : State) : (s.growPbuf).calcPayCksum = s.calcPayCksum := rfl
@[simp] theorem State.growPbuf_cksumOut (s : State) : (s.growPbuf).cksumOut = s.cksumOut := rfl
@[simp] theorem State.growPbuf_errCode (s : State) : (s.growPbuf).errCode = s.errCode := rfl
@[simp] theorem State.growPbuf_errOffset (s : State) : (s.growPbuf).errOffset = s.errOffset := rfl
@[simp] theorem State.growPbuf_log (s : State) : (s.growPbuf).log = s.log := rfl
@[simp] theorem State.growPbuf_cfg (s : State) : (s.growPbuf).cfg = s.cfg := rfl
@[simp] theorem State.growPbuf_stream (s : State) : (s.growPbuf).stream = s.stream := rfl

/-! ### countFailure -/

@[simp] theorem State.countFailure_params (s : State) : (s.countFailure).params = s.params := rfl
@[simp] theorem State.countFailure_host (s : State) : (s.countFailure).host = s.host := rfl
@[simp] theorem State.countFailure_hostData (s : State) : (s.countFailure).hostData = s.hostData := rfl
@[simp] theorem State.countFailure_state (s : State) : (s.countFailure).state = s.state := rfl
@[simp] theorem State.countFailure_cursor (s : State) : (s.countFailure).cursor = s.cursor := rfl
@[simp] theorem State.countFailure_hdrStart (s : State) : (s.countFailure).hdrStart = s.hdrStart := rfl
@[simp] theorem State.countFailure_payloadStart (s : State) : (s.countFailure).payloadStart = s.payloadStart := rfl
@[simp] theorem State.countFailure_hbuf (s : State) : (s.countFailure).hbuf = s.hbuf := rfl
@[simp] theorem State.countFailure_h (s : State) : (s.countFailure).h = s.h := rfl
@[simp] theorem State.countFailure_lastFamily (s : State) : (s.countFailure).lastFamily = s.lastFamily := rfl
@[simp] theorem State.countFailure_checksumFailures (s : State) : (s.countFailure).checksumFailures = satInc32 s.checksumFailures := rfl
@[simp] theorem State.countFailure_earlyEof (s : State) : (s.countFailure).earlyEof = s.earlyEof := rfl
@[simp] theorem State.countFailure_used12 (s : State) : (s.countFailure).used12 = s.used12 := rfl
@[simp] theorem State.countFailure_count (s : State) : (s.countFailure).count = s.count := rfl
@[simp] theorem State.countFailure_idxCap (s : State) : (s.countFailure).idxCap = s.idxCap := rfl
@[simp] theorem State.countFailure_idx (s : State) : (s.countFailure).idx = s.idx := rfl
@[simp] theorem State.countFailure_pbuf (s : State) : (s.countFailure).pbuf = s.pbuf := rfl
@[simp] theorem State.countFailure_pbufCap (s : State) : (s.countFailure).pbufCap = s.pbufCap := rfl
@[simp] theorem State.countFailure_calcHdrCksum (s : State) : (s.countFailure).calcHdrCksum = s.calcHdrCksum := rfl
@[simp] theorem State.countFailure_calcPayCksum (s : State) : (s.countFailure).calcPayCksum = s.calcPayCksum := rfl
@[simp] theorem State.countFailure_cksumOut (s : State) : (s.countFailure).cksumOut = s.cksumOut := rfl
@[simp] theorem State.countFailure_errCode (s : State) : (s.countFailure).errCode = s.errCode := rfl
@[simp] theorem State.countFailure_errOffset (s : State) : (s.countFailure).errOffset = s.errOffset := rfl
@[simp] theorem State.countFailure_log (s : State) : (s.countFailure).log = s.log := rfl
@[simp] theorem State.countFailure_cfg (s : State) : (s.countFailure).cfg = s.cfg := rfl
@[simp] theorem State.countFailure_stream (s : State) : (s.countFailure).stream = s.stream := rfl

/-! ### stopOrGoOn -/

@[simp] theorem State.stopOrGoOn_params (s : State) : (s.stopOrGoOn).params = s.params := rfl
@[simp] theorem State.stopOrGoOn_host (s : State) : (s.stopOrGoOn).host = s.host := rfl
@[simp] theorem State.stopOrGoOn_hostData (s : State) : (s.stopOrGoOn).hostData = s.hostData := rfl
@[simp] theorem State.stopOrGoOn_state (s : State) : (s.stopOrGoOn).state = if s.boundReached || s.cursor == s.cfg.streamLen then .done else .readHeader := rfl
@[simp] theorem State.stopOrGoOn_cursor (s : State) : (s.stopOrGoOn).cursor = s.cursor := rfl
@[simp] theorem State.stopOrGoOn_hdrStart (s : State) : (s.stopOrGoOn).hdrStart = s.hdrStart := rfl
@[simp] theorem State.stopOrGoOn_payloadStart (s : State) : (s.stopOrGoOn).payloadStart = s.payloadStart := rfl
@[simp] theorem State.stopOrGoOn_hbuf (s : State) : (s.stopOrGoOn).hbuf = s.hbuf := rfl
@[simp] theorem State.stopOrGoOn_h (s : State) : (s.stopOrGoOn).h = s.h := rfl
@[simp] theorem State.stopOrGoOn_lastFamily (s : State) : (s.stopOrGoOn).lastFamily = s.lastFamily := rfl
@[simp] theorem State.stopOrGoOn_checksumFailures (s : State) : (s.stopOrGoOn).checksumFailures = s.checksumFailures := rfl
@[simp] theorem State.stopOrGoOn_earlyEof (s : State) : (s.stopOrGoOn).earlyEof = s.earlyEof := rfl
@[simp] theorem State.stopOrGoOn_used12 (s : State) : (s.stopOrGoOn).used12 = s.used12 := rfl
@[simp] theorem State.stopOrGoOn_count (s : State) : (s.stopOrGoOn).count = s.count := rfl
@[simp] theorem State.stopOrGoOn_idxCap (s : State) : (s.stopOrGoOn).idxCap = s.idxCap := rfl
@[simp] theorem State.stopOrGoOn_idx (s : State) : (s.stopOrGoOn).idx = s.idx := rfl
@[simp] theorem State.stopOrGoOn_pbuf (s : State) : (s.stopOrGoOn).pbuf = s.pbuf := rfl
@[simp] theorem State.stopOrGoOn_pbufCap (s : State) : (s.stopOrGoOn).pbufCap = s.pbufCap := rfl
@[simp] theorem State.stopOrGoOn_calcHdrCksum (s : State) : (s.stopOrGoOn).calcHdrCksum = s.calcHdrCksum := rfl
@[simp] theorem State.stopOrGoOn_calcPayCksum (s : State) : (s.stopOrGoOn).calcPayCksum = s.calcPayCksum := rfl
@[simp] theorem State.stopOrGoOn_cksumOut (s : State) : (s.stopOrGoOn).cksumOut = s.cksumOut := rfl
@[simp] theorem State.stopOrGoOn_errCode (s : State) : (s.stopOrGoOn).errCode = s.errCode := rfl
@[simp] theorem State.stopOrGoOn_errOffset (s : State) : (s.stopOrGoOn).errOffset = s.errOffset := rfl
@[simp] theorem State.stopOrGoOn_log (s : State) : (s.stopOrGoOn).log = s.log := rfl
@[simp] theorem State.stopOrGoOn_cfg (s : State) : (s.stopOrGoOn).cfg = s.cfg := rfl
@[simp] theorem State.stopOrGoOn_stream (s : State) : (s.stopOrGoOn).stream = s.stream := rfl

/-! ### runCksum -/

@[simp] theorem State.runCksum_params (s : State) (bs : List Byte) : (s.runCksum bs).params = s.params := rfl
@[simp] theorem State.runCksum_host (s : State) (bs : List Byte) : (s.runCksum bs).host = s.host := rfl
@[simp] theorem State.runCksum_hostData (s : State) (bs : List Byte) : (s.runCksum bs).hostData = s.hostData := rfl
@[simp] theorem State.runCksum_state (s : State) (bs : List Byte) : (s.runCksum bs).state = s.state := rfl
@[simp] theorem State.runCksum_cursor (s : State) (bs : List Byte) : (s.runCksum bs).cursor = s.cursor := rfl
@[simp] theorem State.runCksum_hdrStart (s : State) (bs : List Byte) : (s.runCksum bs).hdrStart = s.hdrStart := rfl
@[simp] theorem State.runCksum_payloadStart (s : State) (bs : List Byte) : (s.runCksum bs).payloadStart = s.payloadStart := rfl
@[simp] theorem State.runCksum_hbuf (s : State) (bs : List Byte) : (s.runCksum bs).hbuf = s.hbuf := rfl
@[simp] theorem State.runCksum_h (s : State) (bs : List Byte) : (s.runCksum bs).h = s.h := rfl
@[simp] theorem State.runCksum_lastFamily (s : State) (bs : List Byte) : (s.runCksum bs).lastFamily = s.lastFamily := rfl
@[simp] theorem State.runCksum_checksumFailures (s : State) (bs : List Byte) : (s.runCksum bs).checksumFailures = s.checksumFailures := rfl
@[simp] theorem State.runCksum_earlyEof (s : State) (bs : List Byte) : (s.runCksum bs).earlyEof = s.earlyEof := rfl
@[simp] theorem State.runCksum_used12 (s : State) (bs : List Byte) : (s.runCksum bs).used12 = s.used12 := rfl
@[simp] theorem State.runCksum_count (s : State) (bs : List Byte) : (s.runCksum bs).count = s.count := rfl
@[simp] theorem State.runCksum_idxCap (s : State) (bs : List Byte) : (s.runCksum bs).idxCap = s.idxCap := rfl
@[simp] theorem State.runCksum_idx (s : State) (bs : List Byte) : (s.runCksum bs).idx = s.idx := rfl
@[simp] theorem State.runCksum_pbuf (s : State) (bs : List Byte) : (s.runCksum bs).pbuf = s.pbuf := rfl
@[simp] theorem State.runCksum_pbufCap (s : State) (bs : List Byte) : (s.runCksum bs).pbufCap = s.pbufCap := rfl
@[simp] theorem State.runCksum_calcHdrCksum (s : State) (bs : List Byte) : (s.runCksum bs).calcHdrCksum = s.calcHdrCksum := rfl
@[simp] theorem State.runCksum_calcPayCksum (s : State) (bs : List Byte) : (s.runCksum bs).calcPayCksum = s.calcPayCksum := rfl
@[simp] theorem State.runCksum_cksumOut (s : State) (bs : List Byte) : (s.runCksum bs).cksumOut = cksum bs := rfl
@[simp] theorem State.runCksum_errCode (s : State) (bs : List Byte) : (s.runCksum bs).errCode = s.errCode := rfl
@[simp] theorem State.runCksum_errOffset (s : State) (bs : List Byte) : (s.runCksum bs).errOffset = s.errOffset := rfl
@[simp] theorem State.runCksum_log (s : State) (bs : List Byte) : (s.runCksum bs).log = s.log := rfl
@[simp] theorem State.runCksum_cfg (s : State) (bs : List Byte) : (s.runCksum bs).cfg = s.cfg := rfl
@[simp] theorem State.runCksum_stream (s : State) (bs : List Byte) : (s.runCksum bs).stream = s.stream := rfl

end Sys2Proof.Machine
end

