-- ==== Sys2Proof/Laws/Bytes.lean ====
section
/-! SUPPORT. Byte order: the bytes of a value assemble to it again; header parsing over the bytes that are there. -/

namespace Sys2Proof

theorem le16_bytes (v : U16) : le16 (byteOf v.toNat 0) (byteOf v.toNat 1) = v := by
  apply BitVec.eq_of_toNat_eq
  simp only [le16, byteOf, BitVec.toNat_ofNat]
  omega

theorem le32_bytes (v : U32) :
    le32 (byteOf v.toNat 0) (byteOf v.toNat 1) (byteOf v.toNat 2) (byteOf v.toNat 3) = v := by
  apply BitVec.eq_of_toNat_eq
  simp only [le32, byteOf, BitVec.toNat_ofNat]
  omega

theorem lohi_bytes (v : U64) :
    lohi (le32 (byteOf v.toNat 0) (byteOf v.toNat 1) (byteOf v.toNat 2) (byteOf v.toNat 3))
      (le32 (byteOf v.toNat 4) (byteOf v.toNat 5) (byteOf v.toNat 6) (byteOf v.toNat 7)) = v := by
  apply BitVec.eq_of_toNat_eq
  simp only [lohi, le32, byteOf, BitVec.toNat_ofNat]
  omega

theorem le16_toNat (b0 b1 : Byte) : (le16 b0 b1).toNat = b0.toNat + 256 * b1.toNat := by
  simp only [le16, BitVec.toNat_ofNat]
  omega

theorem le32_toNat (b0 b1 b2 b3 : Byte) :
    (le32 b0 b1 b2 b3).toNat = b0.toNat + 256 * b1.toNat + 65536 * b2.toNat + 16777216 * b3.toNat := by
  simp only [le32, BitVec.toNat_ofNat]
  omega

theorem bytes_le16 (b0 b1 : Byte) : bytes16 (le16 b0 b1) = [b0, b1] := by
  simp only [bytes16, List.cons.injEq, and_true]
  constructor <;> apply BitVec.eq_of_toNat_eq <;> simp only [byteOf, le16_toNat, BitVec.toNat_ofNat] <;> omega

theorem bytes_le32 (b0 b1 b2 b3 : Byte) : bytes32 (le32 b0 b1 b2 b3) = [b0, b1, b2, b3] := by
  simp only [bytes32, List.cons.injEq, and_true]
  refine ⟨?_, ?_, ?_, ?_⟩ <;> apply BitVec.eq_of_toNat_eq <;>
    simp only [byteOf, le32_toNat, BitVec.toNat_ofNat] <;> omega

theorem entryOf_entryBytes (off : U64) (len : U32) (id : Byte) (k : Bool) :
    Machine.entryOf (Machine.entryBytes off len id k) = some ⟨off, len, id, k⟩ := by
  cases k <;> simp [Machine.entryBytes, bytes64, bytes32, Machine.entryOf, lohi_bytes, le32_bytes]

@[simp] theorem Machine.entryBytes_length (off : U64) (len : U32) (id : Byte) (k : Bool) :
    (Machine.entryBytes off len id k).length = 16 := rfl

@[simp] theorem Header.h10_headerSize (i f : Byte) (n d c : U16) : (Header.h10 i f n d c).headerSize = Config.hs10 := rfl
@[simp] theorem Header.h10_id (i f : Byte) (n d c : U16) : (Header.h10 i f n d c).id = i := rfl
@[simp] theorem Header.h10_family (i f : Byte) (n d c : U16) : (Header.h10 i f n d c).family = f := rfl
@[simp] theorem Header.h12_headerSize (i f : Byte) (n : U32) (d c : U16) :
    (Header.h12 i f n d c).headerSize = Config.hs12 := rfl
@[simp] theorem Header.h12_id (i f : Byte) (n : U32) (d c : U16) : (Header.h12 i f n d c).id = i := rfl
@[simp] theorem Header.h12_family (i f : Byte) (n : U32) (d c : U16) : (Header.h12 i f n d c).family = f := rfl
@[simp] theorem Config.hs10_toNat : Config.hs10.toNat = 10 := rfl
@[simp] theorem Config.hs12_toNat : Config.hs12.toNat = 12 := rfl

/-- What the parser says of the bytes it is given, once: each outcome and the checks that lead to it. -/
theorem parseHeader_cases (bs : List Byte) :
    match parseHeader bs with
    | .error .badSync => bs.head? ≠ some Config.sync
    | .error .badSize => bs[0]? = some Config.sync ∧ ∃ b, bs[1]? = some b ∧ b ≠ Config.hs10 ∧ b ≠ Config.hs12
    | .error .short => bs[0]? = some Config.sync ∧ (bs.length < 2 ∨
        (bs[1]? = some Config.hs10 ∧ bs.length < 10) ∨ (bs[1]? = some Config.hs12 ∧ bs.length < 12))
    | .ok h => (∃ i f n d c, h = Header.h10 i f n d c ∧ bs = encode (.rec10 i f n d c) ++ bs.drop 10) ∨
        (∃ i f n d c, h = Header.h12 i f n d c ∧ bs = encode (.rec12 i f n d c) ++ bs.drop 12) := by
  rcases bs with _ | ⟨b0, _ | ⟨b1, rest⟩⟩
  · simp [parseHeader]
  · by_cases h : b0 = Config.sync <;> simp [parseHeader, h]
  · by_cases h : b0 = Config.sync
    · subst h
      by_cases h10 : b1 = Config.hs10
      · subst h10
        simp only [parseHeader, if_true]
        rcases rest with _ | ⟨i, _ | ⟨f, _ | ⟨n0, _ | ⟨n1, _ | ⟨d0, _ | ⟨d1, _ | ⟨c0, _ | ⟨c1, rest⟩⟩⟩⟩⟩⟩⟩⟩ <;>
          first
          | (simp [parseH10]; done)
          | exact .inl ⟨i, f, le16 n0 n1, le16 d0 d1, le16 c0 c1, rfl, by simp [encode, bytes_le16]⟩
      · by_cases h12 : b1 = Config.hs12
        · subst h12
          simp only [parseHeader, if_true, if_neg h10]
          rcases rest with _ | ⟨i, _ | ⟨f, _ | ⟨n0, _ | ⟨n1, _ | ⟨n2, _ | ⟨n3, _ | ⟨d0, _ | ⟨d1, _ | ⟨c0, _ | ⟨c1, rest⟩⟩⟩⟩⟩⟩⟩⟩⟩⟩ <;>
            first
            | (simp [parseH12]; done)
            | exact .inr ⟨i, f, le32 n0 n1 n2 n3, le16 d0 d1, le16 c0 c1, rfl, by simp [encode, bytes_le16, bytes_le32]⟩
        · simp [parseHeader, h10, h12]
    · simp [parseHeader, h]

/-- A complete H10 header at the front of the bytes parses to its fields, whatever follows. -/
theorem parseHeader_rec10 (i f : Byte) (n d c : U16) (rest : List Byte) :
    parseHeader (encode (.rec10 i f n d c) ++ rest) = .ok (Header.h10 i f n d c) := by
  simp [parseHeader, parseH10, encode, bytes16, le16_bytes]

/-- A complete H12 header at the front of the bytes parses to its fields, whatever follows. -/
theorem parseHeader_rec12 (i f : Byte) (n : U32) (d c : U16) (rest : List Byte) :
    parseHeader (encode (.rec12 i f n d c) ++ rest) = .ok (Header.h12 i f n d c) := by
  have : Config.hs12 ≠ Config.hs10 := by decide
  simp [parseHeader, parseH12, encode, bytes16, bytes32, le16_bytes, le32_bytes, this]

/-- The bytes of a register that packs four of them (R22). -/
theorem byteOf_le32 (a b c d : Byte) :
    byteOf (le32 a b c d).toNat 0 = a ∧ byteOf (le32 a b c d).toNat 1 = b ∧
    byteOf (le32 a b c d).toNat 2 = c ∧ byteOf (le32 a b c d).toNat 3 = d := by
  have h := bytes_le32 a b c d
  simp only [bytes32, List.cons.injEq, and_true] at h
  exact h

/-- The two halves of a 64-bit quantity (R22). -/
theorem lo32_hi32 (v : U64) :
    (Machine.lo32 v).toNat + 4294967296 * (Machine.hi32 v).toNat = v.toNat := by
  have := v.isLt
  simp only [Machine.lo32, Machine.hi32, BitVec.toNat_ofNat]
  omega

end Sys2Proof
end

