-- ==== Sys2Proof/Laws/Checksum.lean ====
section
/-! SUPPORT. The checksum engine: its accumulator is the seed plus the sum of the words of the span, so a run may be
started from any accumulator. -/

namespace Sys2Proof.Machine

/-- The sum of the words of a span, an odd trailing byte counting as a high byte. -/
def wordSum : List Byte → Nat
  | [] => 0
  | [b] => 256 * b.toNat
  | b0 :: b1 :: rest => b0.toNat + 256 * b1.toNat + wordSum rest

theorem cksumFrom_eq (acc : U16) (bs : List Byte) : cksumFrom acc bs = acc + BitVec.ofNat 16 (wordSum bs) := by
  fun_induction wordSum bs generalizing acc with
  | case1 => simp [cksumFrom]
  | case2 b => simp [cksumFrom]
  | case3 b0 b1 rest ih =>
    rw [cksumFrom, ih, BitVec.add_assoc]
    congr 1
    simp [le16, BitVec.ofNat_add]

theorem cksum_eq (bs : List Byte) : cksum bs = Config.seed + BitVec.ofNat 16 (wordSum bs) := cksumFrom_eq _ _

theorem cksum_toNat (bs : List Byte) : (cksum bs).toNat = (46476 + wordSum bs) % 65536 := by
  rw [cksum_eq, BitVec.toNat_add, BitVec.toNat_ofNat, show Config.seed.toNat = 46476 from rfl]
  omega

/-- The words of an even-length span and of what follows it add up. -/
theorem wordSum_append (xs : List Byte) (h : xs.length % 2 = 0) (ys : List Byte) :
    wordSum (xs ++ ys) = wordSum xs + wordSum ys := by
  fun_induction wordSum xs with
  | case1 => simp
  | case2 b => simp at h
  | case3 b0 b1 rest ih =>
    simp only [List.cons_append, wordSum]
    rw [ih (by simp at h; omega)]
    omega

end Sys2Proof.Machine
end

