-- ==== Sys2Proof/Laws/Memory.lean ====
section
/-! SUPPORT. Byte memories: a read after a write, spans, and that every write keeps the canonical form. -/

namespace Sys2Proof.Machine

theorem Memory.read_write (m : Memory) (a : Nat) (v : Byte) (b : Nat) :
    (m.write a v).read b = if b = a then some v else m.read b := by
  induction m with
  | nil => simp [Memory.write, Memory.read, eq_comm]
  | cons c m ih =>
    obtain ⟨k, w⟩ := c
    simp only [Memory.write]
    split
    · simp only [Memory.read]; split_ifs <;> first | rfl | omega
    · split
      · simp only [Memory.read]; split_ifs <;> first | rfl | omega
      · simp only [Memory.read, ih]; split_ifs <;> first | rfl | omega

/-- A key of the memory after a write is the address written or a key from before. -/
theorem Memory.mem_write {m : Memory} {a : Nat} {v : Byte} {c : Host.Cell} (h : c ∈ m.write a v) :
    c = (a, v) ∨ c ∈ m := by
  induction m with
  | nil => simpa [Memory.write] using h
  | cons d m ih =>
    simp only [Memory.write] at h
    split at h
    · simpa using h
    · split at h
      · rcases List.mem_cons.1 h with h | h
        · exact .inl h
        · exact .inr (List.mem_cons_of_mem _ h)
      · rcases List.mem_cons.1 h with h | h
        · exact .inr (h ▸ List.mem_cons_self)
        · exact (ih h).imp_right (List.mem_cons_of_mem _)

theorem Memory.wf_write {m : Memory} (h : m.wf) (a : Nat) (v : Byte) : (m.write a v).wf := by
  induction m with
  | nil => simp [Memory.write]
  | cons d m ih =>
    obtain ⟨hd, hm⟩ := List.pairwise_cons.1 h
    simp only [Memory.write]
    split
    next hlt =>
      refine List.pairwise_cons.2 ⟨fun c hc => ?_, h⟩
      rcases List.mem_cons.1 hc with rfl | hc
      · exact hlt
      · exact Nat.lt_trans hlt (hd c hc)
    next hge =>
      split
      next heq => exact List.pairwise_cons.2 ⟨fun c hc => heq ▸ hd c hc, hm⟩
      next hne =>
        refine List.pairwise_cons.2 ⟨fun c hc => ?_, ih hm⟩
        rcases Memory.mem_write hc with rfl | hc
        · show d.1 < a; omega
        · exact hd c hc

theorem Memory.wf_writeBytes {m : Memory} (h : m.wf) (a : Nat) (bs : List Byte) : (m.writeBytes a bs).wf := by
  induction bs generalizing m a with
  | nil => exact h
  | cons b bs ih => exact ih (Memory.wf_write h a b) (a + 1)

theorem Memory.read_writeBytes (m : Memory) (a : Nat) (bs : List Byte) (b : Nat) :
    (m.writeBytes a bs).read b = if a ≤ b ∧ b < a + bs.length then bs[b - a]? else m.read b := by
  induction bs generalizing m a with
  | nil => rw [if_neg (by simp)]; rfl
  | cons c bs ih =>
    simp only [Memory.writeBytes, ih, Memory.read_write, List.length_cons]
    by_cases h1 : b = a
    · subst h1; simp
    · by_cases h2 : a + 1 ≤ b ∧ b < a + 1 + bs.length
      · rw [if_pos h2, if_pos (by omega), show b - a = (b - (a + 1)) + 1 by omega, List.getElem?_cons_succ]
      · rw [if_neg h2, if_neg h1, if_neg (by omega)]

/-- A span reads as `bs` just when each of its bytes does. -/
theorem Memory.readSpan_eq_some {m : Memory} {a n : Nat} {bs : List Byte} :
    m.readSpan a n = some bs ↔ bs.length = n ∧ ∀ i, i < n → m.read (a + i) = bs[i]? := by
  induction n generalizing a bs with
  | zero =>
    cases bs <;> simp [Memory.readSpan]
  | succ n ih =>
    simp only [Memory.readSpan]
    constructor
    · intro h
      cases h1 : m.read a with
      | none => simp [h1] at h
      | some b =>
        cases h2 : m.readSpan (a + 1) n with
        | none => simp [h1, h2] at h
        | some cs =>
          simp only [h1, h2, Option.some.injEq] at h
          subst h
          obtain ⟨hl, hr⟩ := ih.1 h2
          refine ⟨by simp [hl], fun i hi => ?_⟩
          cases i with
          | zero => simpa using h1
          | succ i => rw [show a + (i + 1) = a + 1 + i by omega, hr i (by omega)]; simp
    · rintro ⟨hl, hr⟩
      cases bs with
      | nil => simp at hl
      | cons b cs =>
        have h1 : m.read a = some b := by simpa using hr 0 (by omega)
        have h2 : m.readSpan (a + 1) n = some cs := ih.2 ⟨by simpa using hl, fun i hi => by
          rw [show a + 1 + i = a + (i + 1) by omega, hr (i + 1) (by omega)]; simp⟩
        simp [h1, h2]

theorem Memory.readSpan_length {m : Memory} {a n : Nat} {bs : List Byte} (h : m.readSpan a n = some bs) :
    bs.length = n := (Memory.readSpan_eq_some.1 h).1

theorem Memory.readSpan_read {m : Memory} {a n : Nat} {bs : List Byte} (h : m.readSpan a n = some bs) {i : Nat}
    (hi : i < n) : m.read (a + i) = bs[i]? := (Memory.readSpan_eq_some.1 h).2 i hi

/-- A span whose bytes all have a value can be read. -/
theorem Memory.readSpan_isSome {m : Memory} {a n : Nat} (h : ∀ i, i < n → (m.read (a + i)).isSome = true) :
    (m.readSpan a n).isSome = true := by
  induction n generalizing a with
  | zero => rfl
  | succ n ih =>
    have h0 := h 0 (by omega)
    have h1 := ih (a := a + 1) fun i hi => by rw [show a + 1 + i = a + (i + 1) by omega]; exact h _ (by omega)
    obtain ⟨b, hb⟩ := Option.isSome_iff_exists.1 h0
    obtain ⟨bs, hbs⟩ := Option.isSome_iff_exists.1 h1
    simp [Memory.readSpan, show m.read a = some b by simpa using hb, hbs]

/-- A span that cannot be read has a byte without a value. -/
theorem Memory.readSpan_eq_none {m : Memory} {a n : Nat} (h : m.readSpan a n = none) :
    ∃ i, i < n ∧ m.read (a + i) = none := by
  by_contra hc
  have := Memory.readSpan_isSome (m := m) (a := a) (n := n) fun i hi => by
    cases hr : m.read (a + i) with
    | none => exact absurd ⟨i, hi, hr⟩ hc
    | some b => rfl
  simp [h] at this

/-- The front of a span that can be read. -/
theorem Memory.readSpan_take {m : Memory} {a n k : Nat} {bs : List Byte} (h : m.readSpan a n = some bs) (hk : k ≤ n) :
    m.readSpan a k = some (bs.take k) := by
  obtain ⟨hl, hr⟩ := Memory.readSpan_eq_some.1 h
  exact Memory.readSpan_eq_some.2 ⟨by simp; omega, fun i hi => by rw [hr i (by omega), List.getElem?_take_of_lt hi]⟩

/-- A span just written reads back. -/
theorem Memory.readSpan_writeBytes_same (m : Memory) (a : Nat) (bs : List Byte) :
    (m.writeBytes a bs).readSpan a bs.length = some bs :=
  Memory.readSpan_eq_some.2 ⟨rfl, fun i hi => by
    rw [Memory.read_writeBytes, if_pos ⟨by omega, by omega⟩, Nat.add_sub_cancel_left]⟩

/-- A span that a write does not touch reads as before. -/
theorem Memory.readSpan_congr {m m' : Memory} {a n : Nat} (h : ∀ i, i < n → m'.read (a + i) = m.read (a + i)) :
    m'.readSpan a n = m.readSpan a n := by
  induction n generalizing a with
  | zero => rfl
  | succ n ih =>
    have h0 : m'.read a = m.read a := by simpa using h 0 (by omega)
    have h1 := ih (a := a + 1) fun i hi => by rw [show a + 1 + i = a + (i + 1) by omega]; exact h _ (by omega)
    simp [Memory.readSpan, h0, h1]

theorem Memory.readSpan_writeBytes_below (m : Memory) (a : Nat) (bs : List Byte) {p n : Nat} (h : p + n ≤ a) :
    (m.writeBytes a bs).readSpan p n = m.readSpan p n :=
  Memory.readSpan_congr fun i hi => by rw [Memory.read_writeBytes, if_neg (by omega)]

end Sys2Proof.Machine
end

