-- ==== Sys2Proof/Laws/Index.lean ====
section
/-! SUPPORT. The index controller: the entry an append writes, and the entries it leaves alone. -/

namespace Sys2Proof.Machine

theorem u64_toNat {n : Nat} (h : n < 2 ^ 64) : (u64 n).toNat = n := by
  rw [u64, BitVec.toNat_ofNat, Nat.mod_eq_of_lt h]

/-- An entry depends on the index memory alone (R43). -/
theorem State.entryAt_congr {s t : State} (h : s.idx = t.idx) (i : Nat) : s.entryAt i = t.entryAt i := by
  rw [State.entryAt, State.entryAt, h]

/-- The triples depend on the index memory alone (R144). -/
theorem State.entries_congr {s t : State} (h : s.idx = t.idx) (n : Nat) : s.entries n = t.entries n := by
  induction n with
  | zero => rfl
  | succ n ih => rw [State.entries, State.entries, ih, State.entryAt_congr h]

/-- `count` after an append below `INDEX_MAX` (R142). -/
theorem State.idxAppend_count_toNat {s : State} (h : s.count.toNat < s.params.indexMax.toNat) (o : U64) (n : U32)
    (i : Byte) (k : Bool) : (s.idxAppend o n i k).count.toNat = s.count.toNat + 1 :=
  u64_toNat (by have := s.params.indexMax.isLt; omega)

/-- An append writes the entry it is given at the end (R142, R44). -/
theorem State.idxAppend_entryAt_new (s : State) (o : U64) (n : U32) (i : Byte) (k : Bool) :
    (s.idxAppend o n i k).entryAt s.count.toNat = some ⟨o, n, i, k⟩ := by
  have h := Memory.readSpan_writeBytes_same s.idx (16 * s.count.toNat) (entryBytes o n i k)
  rw [entryBytes_length] at h
  simp [State.entryAt, h, entryOf_entryBytes]

/-- An append leaves the entries before it (R142: "Entries are never overwritten or removed during a scan"). -/
theorem State.idxAppend_entryAt_old (s : State) (o : U64) (n : U32) (i : Byte) (k : Bool) {j : Nat}
    (hj : j < s.count.toNat) : (s.idxAppend o n i k).entryAt j = s.entryAt j := by
  simp only [State.entryAt, State.idxAppend_idx]
  rw [Memory.readSpan_writeBytes_below _ _ _ (by omega)]

/-- The index memory outside the entry written is unchanged. -/
theorem State.idxAppend_read (s : State) (o : U64) (n : U32) (i : Byte) (k : Bool) {a : Nat}
    (h : a < 16 * s.count.toNat ∨ 16 * s.count.toNat + 16 ≤ a) :
    (s.idxAppend o n i k).idx.read a = s.idx.read a := by
  rw [State.idxAppend_idx, Memory.read_writeBytes, if_neg (by rw [entryBytes_length]; omega)]

/-- All that an append writes: the 16 bytes of its entry, and no others (R142, R44). -/
theorem State.idxAppend_written (s : State) (o : U64) (n : U32) (i : Byte) (k : Bool) :
    s.EntryWritten o n i k (s.idxAppend o n i k).idx := by
  have key : ∀ j, j < 16 → (s.idxAppend o n i k).idx.read (16 * s.count.toNat + j) = (entryBytes o n i k)[j]? := by
    intro j hj
    rw [State.idxAppend_idx, Memory.read_writeBytes, if_pos (by rw [entryBytes_length]; omega), Nat.add_sub_cancel_left]
  refine ⟨fun j hj => ?_, fun j hj => ?_, key 12 (by omega), key 13 (by omega), key 14 (by omega), key 15 (by omega),
    fun a => State.idxAppend_read s o n i k, fun hw => Memory.wf_writeBytes hw _ _⟩
  · rw [key j (by omega)]; interval_cases j <;> rfl
  · rw [Nat.add_assoc, key (8 + j) (by omega)]; interval_cases j <;> rfl

/-- `idx_cap` after an append (R141). -/
theorem State.idxAppend_cap (s : State) (o : U64) (n : U32) (i : Byte) (k : Bool) :
    (s.idxAppend o n i k).idxCap = s.capAfterAppend := rfl

/-- `idx_cap` after `IDX_GROW`: room for one more entry below `INDEX_MAX` (R140, R141). -/
theorem State.idxGrow_room {s : State} (h1 : 1 ≤ s.idxCap.toNat) (h2 : s.count.toNat ≤ s.idxCap.toNat)
    (h3 : s.count.toNat < s.params.indexMax.toNat) :
    s.count.toNat + 1 ≤ s.idxGrow.idxCap.toNat := by
  rw [State.idxGrow_idxCap]
  split
  next h =>
    have hm := s.params.indexMax.isLt
    rw [u64_toNat (by omega), ← h]
    have : 1 ≤ s.count.toNat := by rw [h]; exact h1
    show _ ≤ min _ (_ * 2)
    omega
  next h =>
    have : s.count.toNat ≠ s.idxCap.toNat := fun hc => h (BitVec.eq_of_toNat_eq hc)
    omega

end Sys2Proof.Machine
end

