-- ==== Sys2Proof/Laws/PerInstr.lean ====
section
/-! SUPPORT. Facts about every instruction as syntax, one lemma per constructor: decoding what the encoder writes gives
the instruction back, with what follows it; a FUNC row has no encoding and its code space decodes to nothing (R72). -/

namespace Sys2Proof.Laws.RoundTrip

def Statement (i : Instr) : Prop :=
  i.wellFormed = true → ∀ rest : List Byte,
    decode i.format (encode i ++ rest) = if i.format = .func then .error .noEncoding else .ok (i, rest)

theorem rec10 (i f : Byte) (n d c : U16) : Statement (.rec10 i f n d c) := fun _ rest => by
  have hn : BitVec.ofNat 16 (Header.h10 i f n d c).dataSize.toNat = n := by
    apply BitVec.eq_of_toNat_eq
    simp only [Header.h10, BitVec.toNat_ofNat]
    omega
  have hd : List.drop 10 (encode (.rec10 i f n d c) ++ rest) = rest := rfl
  simp only [Instr.format, decode, decodeWire, parseHeader_rec10, Header.h10_headerSize, Config.hs10_toNat, hd,
    Instr.ofHeader, hn]
  rfl

theorem rec12 (i f : Byte) (n : U32) (d c : U16) : Statement (.rec12 i f n d c) := fun _ rest => by
  have hd : List.drop 12 (encode (.rec12 i f n d c) ++ rest) = rest := rfl
  have hne : ¬ Config.hs12 = Config.hs10 := by decide
  simp only [Instr.format, decode, decodeWire, parseHeader_rec12, Header.h12_headerSize, Config.hs12_toNat, hd,
    Instr.ofHeader, hne]
  rfl

theorem resyncCandidate10 (i f : Byte) : Statement (.resyncCandidate10 i f) := fun _ _ => rfl
theorem resyncCandidate12 (i f : Byte) : Statement (.resyncCandidate12 i f) := fun _ _ => rfl
theorem id21 : Statement .id21 := fun _ _ => rfl
theorem id22 : Statement .id22 := fun _ _ => rfl
theorem id23 : Statement .id23 := fun _ _ => rfl
theorem id24 : Statement .id24 := fun _ _ => rfl
theorem id26 : Statement .id26 := fun _ _ => rfl
theorem id27 : Statement .id27 := fun _ _ => rfl
theorem id28 : Statement .id28 := fun _ _ => rfl
theorem id29 : Statement .id29 := fun _ _ => rfl
theorem id30 : Statement .id30 := fun _ _ => rfl
theorem id31 : Statement .id31 := fun _ _ => rfl
theorem id160 : Statement .id160 := fun _ _ => rfl

theorem idUnknown (b : Byte) : Statement (.idUnknown b) := fun h rest => by
  have hb : ∀ b : Byte, (Instr.idUnknown b).wellFormed = true → decodeId b = .idUnknown b := by decide
  simp only [Instr.format, encode, List.singleton_append, decode, hb b h]
  rfl

theorem idle : Statement .idle := fun _ _ => rfl
theorem seekingSync : Statement .seekingSync := fun _ _ => rfl
theorem readHeader : Statement .readHeader := fun _ _ => rfl
theorem validateHeader : Statement .validateHeader := fun _ _ => rfl
theorem readPayload : Statement .readPayload := fun _ _ => rfl
theorem validatePayload : Statement .validatePayload := fun _ _ => rfl
theorem emit : Statement .emit := fun _ _ => rfl
theorem resync : Statement .resync := fun _ _ => rfl
theorem done : Statement .done := fun _ _ => rfl
theorem fatal : Statement .fatal := fun _ _ => rfl
theorem cksum (bs : List Byte) : Statement (.cksum bs) := fun _ _ => rfl
theorem idxAppend (o : U64) (n : U32) (i : Byte) (k : Bool) : Statement (.idxAppend o n i k) := fun _ _ => rfl
theorem pbufGrow : Statement .pbufGrow := fun _ _ => rfl
theorem start : Statement .start := fun _ _ => rfl
theorem softReset : Statement .softReset := fun _ _ => rfl
theorem eOpen : Statement .eOpen := fun _ _ => rfl
theorem eNoSync : Statement .eNoSync := fun _ _ => rfl
theorem eBadSync : Statement .eBadSync := fun _ _ => rfl
theorem eHdrSize : Statement .eHdrSize := fun _ _ => rfl
theorem eCksumCap : Statement .eCksumCap := fun _ _ => rfl
theorem eIndexFull : Statement .eIndexFull := fun _ _ => rfl

end Sys2Proof.Laws.RoundTrip
end

