-- ==== Sys2Proof/Laws/Search.lean ====
section
/-! SUPPORT. The two searches over the stream: everything each can answer. -/

namespace Sys2Proof.Machine

/-- The initial sync search: where it stopped and what it passed (R114). -/
theorem findSync_spec (m : Memory) (n p : Nat) :
    match findSync m n p with
    | .found q => p ≤ q ∧ q < p + n ∧ m.read q = some Config.sync ∧
        ∀ a, p ≤ a → a < q → m.read a ≠ some Config.sync
    | .endOfStream => ∀ a, p ≤ a → a < p + n → m.read a ≠ some Config.sync
    | .absent => ∃ a, p ≤ a ∧ a < p + n ∧ m.read a = none := by
  induction n generalizing p with
  | zero => intro a h1 h2; omega
  | succ n ih =>
    simp only [findSync]
    cases hr : m.read p with
    | none => exact ⟨p, by omega, by omega, hr⟩
    | some b =>
      by_cases hb : b = Config.sync
      · simp only [hb, if_true]
        exact ⟨by omega, by omega, by rw [hr, hb], fun a h1 h2 => by omega⟩
      · have hp : m.read p ≠ some Config.sync := by rw [hr]; simpa using hb
        have hstep : ∀ {P : Nat → Prop}, P p → (∀ a, p + 1 ≤ a → P a) → ∀ a, p ≤ a → P a := by
          intro P h0 h1 a ha
          rcases Nat.eq_or_lt_of_le ha with rfl | h
          · exact h0
          · exact h1 a h
        simp only [if_neg hb]
        have := ih (p + 1)
        revert this
        cases findSync m n (p + 1) with
        | found q =>
          rintro ⟨h1, h2, h3, h4⟩
          exact ⟨by omega, by omega, h3, hstep (fun _ => hp) h4⟩
        | endOfStream =>
          intro h
          exact hstep (fun _ => hp) fun a h1 h2 => h a h1 (by omega)
        | absent =>
          rintro ⟨a, h1, h2, h3⟩
          exact ⟨a, by omega, by omega, h3⟩

/-- The initial search stops at an absent byte that no sync byte comes before (R114, R175). -/
theorem findSync_absent {m : Memory} {q : Nat} (hq : m.read q = none) (n p : Nat) (h1 : p ≤ q) (h2 : q < p + n)
    (h : ∀ a, p ≤ a → a < q → m.read a ≠ some Config.sync) : findSync m n p = .absent := by
  induction n generalizing p with
  | zero => omega
  | succ n ih =>
    simp only [findSync]
    cases hr : m.read p with
    | none => rfl
    | some b =>
      have hne : p ≠ q := fun hpq => by rw [hpq, hq] at hr; cases hr
      have hb : b ≠ Config.sync := fun hb => h p (Nat.le_refl _) (by omega) (by rw [hr, hb])
      simp only [if_neg hb]
      exact ih (p + 1) (by omega) (by omega) fun a ha => h a (by omega)

/-- The bytes at the front of a span are a plausible header of this family just when four bytes say so (R68). -/
theorem candidateFamily_eq_some (bs : List Byte) (f : Byte) :
    candidateFamily bs = some f ↔ bs[0]? = some Config.sync ∧
      (bs[1]? = some Config.hs10 ∨ bs[1]? = some Config.hs12) ∧ bs[3]? = some f := by
  have hne : Config.hs12 ≠ Config.hs10 := by decide
  rcases bs with _ | ⟨b0, _ | ⟨b1, _ | ⟨b2, _ | ⟨b3, rest⟩⟩⟩⟩ <;> simp [candidateFamily, decodeCandidate]
  by_cases h0 : b0 = Config.sync <;> by_cases h1 : b1 = Config.hs10 <;> by_cases h2 : b1 = Config.hs12 <;>
    simp_all

/-- The peeked bytes at `p` tell whether `p` is a plausible header (R68, R101). -/
theorem plausible_iff_peek {s : State} {p n : Nat} {bs : List Byte} (hn : p + (n + 1) = s.len)
    (h : s.stream.readSpan p (min 4 (n + 1)) = some bs) :
    candidateFamily bs = some s.lastFamily ↔ s.Plausible p := by
  obtain ⟨hl, hr⟩ := Memory.readSpan_eq_some.1 h
  rw [candidateFamily_eq_some]
  constructor
  · rintro ⟨h0, h1, h3⟩
    have h4 : 4 ≤ n + 1 := by
      have : 3 < bs.length := by
        by_contra hc
        rw [List.getElem?_eq_none (by omega)] at h3
        exact absurd h3 (by simp)
      omega
    refine ⟨by omega, ?_, ?_, ?_⟩
    · rw [show p = p + 0 by omega, hr 0 (by omega), h0]
    · rw [hr 1 (by omega)]; exact h1
    · rw [hr 3 (by omega)]; exact h3
  · rintro ⟨hlen, h0, h1, h3⟩
    refine ⟨?_, ?_, ?_⟩
    · rw [← hr 0 (by omega)]; simpa using h0
    · rw [← hr 1 (by omega)]; exact h1
    · rw [← hr 3 (by omega)]; exact h3

/-- The resynchronizer's search: where it stopped and what it passed (R101). -/
theorem findCandidate_spec (s : State) (n p : Nat) (hn : p + n = s.len) :
    match findCandidate s.stream s.lastFamily n p with
    | .found q => p ≤ q ∧ s.Plausible q ∧ ∀ a, p ≤ a → a < q → ¬ s.Plausible a
    | .endOfStream => ∀ a, p ≤ a → ¬ s.Plausible a
    | .absent => ∃ a, p ≤ a ∧ a < s.len ∧ s.stream.read a = none := by
  induction n generalizing p with
  | zero => intro a h1 h2; have := h2.1; omega
  | succ n ih =>
    have hstep : ∀ {P : Nat → Prop}, P p → (∀ a, p + 1 ≤ a → P a) → ∀ a, p ≤ a → P a := by
      intro P h0 h1 a ha
      rcases Nat.eq_or_lt_of_le ha with rfl | h
      · exact h0
      · exact h1 a h
    have next : ¬ s.Plausible p →
        match findCandidate s.stream s.lastFamily n (p + 1) with
        | .found q => p ≤ q ∧ s.Plausible q ∧ ∀ a, p ≤ a → a < q → ¬ s.Plausible a
        | .endOfStream => ∀ a, p ≤ a → ¬ s.Plausible a
        | .absent => ∃ a, p ≤ a ∧ a < s.len ∧ s.stream.read a = none := by
      intro hp
      have := ih (p + 1) (by omega)
      revert this
      cases findCandidate s.stream s.lastFamily n (p + 1) with
      | found q => rintro ⟨h1, h2, h3⟩; exact ⟨by omega, h2, hstep (fun _ => hp) h3⟩
      | endOfStream => exact hstep hp
      | absent => rintro ⟨a, h1, h2, h3⟩; exact ⟨a, by omega, h2, h3⟩
    simp only [findCandidate]
    cases hr : s.stream.read p with
    | none => exact ⟨p, by omega, by omega, hr⟩
    | some b =>
      by_cases hb : b = Config.sync
      · simp only [hb, if_true]
        cases hs : s.stream.readSpan p (min 4 (n + 1)) with
        | none =>
          obtain ⟨i, h1, h2⟩ := Memory.readSpan_eq_none hs
          exact ⟨p + i, by omega, by omega, h2⟩
        | some bs =>
          by_cases hc : candidateFamily bs = some s.lastFamily
          · simp only [hc, if_true]
            exact ⟨by omega, (plausible_iff_peek hn hs).1 hc, fun a h1 h2 => by omega⟩
          · simp only [if_neg hc]
            exact next fun hp => hc ((plausible_iff_peek hn hs).2 hp)
      · simp only [if_neg hb]
        refine next fun hp => hb ?_
        have := hp.2.1
        rw [hr] at this
        exact Option.some.inj this

/-- The resynchronizer's search stops at an absent byte that no plausible header ends before (R101, R175). -/
theorem findCandidate_absent {s : State} {q : Nat} (hq : s.stream.read q = none) (n p : Nat) (hn : p + n = s.len)
    (h1 : p ≤ q) (h2 : q < s.len) (h : ∀ a, p ≤ a → a < q → s.Plausible a → q ≤ a + 3) :
    findCandidate s.stream s.lastFamily n p = .absent := by
  induction n generalizing p with
  | zero => omega
  | succ n ih =>
    simp only [findCandidate]
    cases hr : s.stream.read p with
    | none => rfl
    | some b =>
      have hne : p ≠ q := fun hpq => by rw [hpq, hq] at hr; cases hr
      have next := ih (p + 1) (by omega) (by omega) fun a ha => h a (by omega)
      by_cases hb : b = Config.sync
      · simp only [hb, if_true]
        cases hs : s.stream.readSpan p (min 4 (n + 1)) with
        | none => rfl
        | some bs =>
          have hc : candidateFamily bs ≠ some s.lastFamily := fun hc => by
            have := h p (Nat.le_refl _) (by omega) ((plausible_iff_peek hn hs).1 hc)
            have hj := Memory.readSpan_eq_some.1 hs
            have hl := hj.1
            have := hj.2 (q - p) (by omega)
            rw [show p + (q - p) = q by omega, hq, List.getElem?_eq_getElem (by omega)] at this
            cases this
          simp only [if_neg hc]
          exact next
      · simp only [if_neg hb]
        exact next

end Sys2Proof.Machine
end

