-- ==== Sys2Proof/Laws/Exec.lean ====
section
/-! SUPPORT. What each meaning can do, once: the bytes a loaded stream gives, an inversion lemma for each operation (if it
answers next t, then t is one of these states), and what one step is. Provers cite these and unfold no meaning. -/

namespace Sys2Proof.Machine

/-! ## Bytes of a loaded stream -/

theorem loaded_span {s : State} (h : s.StreamLoaded) {p n : Nat} (hp : p + n ≤ s.len) :
    ∃ bs, s.stream.readSpan p n = some bs :=
  Option.isSome_iff_exists.1 (Memory.readSpan_isSome fun i hi => h _ (by omega))

theorem loaded_window {s : State} (h : s.StreamLoaded) : ∃ bs, s.windowBytes = some bs := by
  rcases Nat.lt_or_ge s.len s.cursor.toNat with hc | hc
  · exact ⟨[], by
      simp [State.windowBytes, State.peek, Nat.sub_eq_zero_of_le (Nat.le_of_lt hc), Memory.readSpan]⟩
  · exact loaded_span h (by simp only [Config.hdrWindow]; omega)

theorem windowBytes_length {s : State} {bs : List Byte} (h : s.windowBytes = some bs) :
    bs.length = min 12 (s.len - s.cursor.toNat) := Memory.readSpan_length h

/-- The window's registers are fixed by the stream (R11, R92). -/
theorem window_unique {s : State} {w : Window} (hw : s.WindowAtCursor w) {bs : List Byte}
    (hb : s.windowBytes = some bs) : Window.ofBytes bs = w := by
  obtain ⟨hl, hr⟩ := Memory.readSpan_eq_some.1 hb
  have key : ∀ i, i < 12 → bs.getD i 0 = w.toList.getD i 0 := by
    intro i hi
    have h1 := hw i hi
    rw [List.getD_eq_getElem?_getD, List.getD_eq_getElem?_getD, h1]
    by_cases h : s.cursor.toNat + i < s.len
    · rw [if_pos h, ← hr i (by simp only [Config.hdrWindow]; omega)]; simp
    · rw [if_neg h, List.getElem?_eq_none (by simp only [Config.hdrWindow] at hl; omega)]; rfl
  simp only [Window.ofBytes, key 0 (by omega), key 1 (by omega), key 2 (by omega), key 3 (by omega), key 4 (by omega),
    key 5 (by omega), key 6 (by omega), key 7 (by omega), key 8 (by omega), key 9 (by omega), key 10 (by omega),
    key 11 (by omega)]
  rfl

/-- The window begins with the bytes the stream holds at the cursor. -/
theorem holds_window {s : State} {bs hdr : List Byte} (hb : s.windowBytes = some bs)
    (hh : s.Holds s.cursor.toNat hdr) (h12 : hdr.length ≤ 12) (hle : s.cursor.toNat + hdr.length ≤ s.len) :
    bs = hdr ++ bs.drop hdr.length := by
  have := Memory.readSpan_take hb (k := hdr.length) (by simp only [Config.hdrWindow]; omega)
  rw [hh] at this
  conv_lhs => rw [← List.take_append_drop hdr.length bs, ← Option.some.inj this]

/-- A header that parses is all there. -/
theorem parse_ok_length {bs : List Byte} {h : Header} (hp : parseHeader bs = .ok h) :
    h.headerSize.toNat ≤ bs.length := by
  have := parseHeader_cases bs
  rw [hp] at this
  rcases this with ⟨i, f, n, d, c, rfl, hb⟩ | ⟨i, f, n, d, c, rfl, hb⟩ <;>
    (rw [hb]; simp [encode, bytes16, bytes32]; try omega)

/-- A header that parses from some bytes parses from any bytes that begin with them. -/
theorem parse_append {bs : List Byte} {h : Header} (hp : parseHeader bs = .ok h) (rest : List Byte) :
    parseHeader (bs ++ rest) = .ok h := by
  have := parseHeader_cases bs
  rw [hp] at this
  rcases this with ⟨i, f, n, d, c, rfl, hb⟩ | ⟨i, f, n, d, c, rfl, hb⟩
  · rw [hb, List.append_assoc, parseHeader_rec10]
  · rw [hb, List.append_assoc, parseHeader_rec12]

/-- The header sizes that parse (R10). -/
theorem parse_size {bs : List Byte} {h : Header} (hp : parseHeader bs = .ok h) :
    h.headerSize.toNat = 10 ∨ h.headerSize.toNat = 12 := by
  have := parseHeader_cases bs
  rw [hp] at this
  rcases this with ⟨i, f, n, d, c, rfl, hb⟩ | ⟨i, f, n, d, c, rfl, hb⟩
  · exact .inl rfl
  · exact .inr rfl

/-- The window is its bytes, then zeros (R11). -/
theorem ofBytes_toList (bs : List Byte) (h : bs.length ≤ 12) :
    (Window.ofBytes bs).toList = bs ++ List.replicate (12 - bs.length) 0 := by
  apply List.ext_getElem?
  intro i
  rw [show (Window.ofBytes bs).toList = (List.range 12).map (fun i => bs.getD i 0) from rfl]
  by_cases hi : i < 12
  · rw [List.getElem?_map, List.getElem?_range hi]
    simp only [Option.map_some]
    by_cases hb : i < bs.length
    · rw [List.getElem?_append_left hb, List.getD_eq_getElem?_getD, List.getElem?_eq_getElem hb]; rfl
    · rw [List.getElem?_append_right (by omega), List.getD_eq_getElem?_getD, List.getElem?_eq_none (by omega),
        List.getElem?_replicate, if_pos (by omega)]
      rfl
  · rw [List.getElem?_eq_none (by simp; omega), List.getElem?_eq_none (by simp; omega)]

/-! ## The header reader -/

theorem ofHeader_h10 (i f : Byte) (n d c : U16) : Instr.ofHeader (Header.h10 i f n d c) = .rec10 i f n d c := by
  have hn : BitVec.ofNat 16 (Header.h10 i f n d c).dataSize.toNat = n := by
    apply BitVec.eq_of_toNat_eq
    simp only [Header.h10, BitVec.toNat_ofNat]
    omega
  simp only [Instr.ofHeader, hn]
  rfl

theorem ofHeader_h12 (i f : Byte) (n : U32) (d c : U16) : Instr.ofHeader (Header.h12 i f n d c) = .rec12 i f n d c :=
  rfl

/-- READ_HEADER, by what the bytes at the cursor are (R92). -/
theorem execReadHeader_eq {s : State} {bs : List Byte} (hb : s.windowBytes = some bs) :
    execReadHeader s = match parseHeader bs with
      | .error .badSync => .next ((s.loadWindow bs).raiseFatal .badSync s.cursor)
      | .error .badSize => .next ((s.loadWindow bs).raiseFatal .hdrSize s.cursor)
      | .error .short => .next ((s.loadWindow bs).endEarly .shortRead s.cursor)
      | .ok h => .next ((s.loadWindow bs).acceptHeader h) := by
  simp only [execReadHeader, hb]
  rcases parseHeader bs with e | h
  · cases e <;> rfl
  · rfl

theorem execReadHeader_next {s t : State} (h : execReadHeader s = .next t) :
    ∃ bs, s.windowBytes = some bs ∧
      ((parseHeader bs = .error .badSync ∧ t = (s.loadWindow bs).raiseFatal .badSync s.cursor) ∨
       (parseHeader bs = .error .badSize ∧ t = (s.loadWindow bs).raiseFatal .hdrSize s.cursor) ∨
       (parseHeader bs = .error .short ∧ t = (s.loadWindow bs).endEarly .shortRead s.cursor) ∨
       (∃ hd, parseHeader bs = .ok hd ∧ t = (s.loadWindow bs).acceptHeader hd)) := by
  cases hb : s.windowBytes with
  | none => rw [execReadHeader, hb] at h; cases h
  | some bs =>
    refine ⟨bs, rfl, ?_⟩
    rw [execReadHeader_eq hb] at h
    rcases hp : parseHeader bs with e | hd
    · rw [hp] at h; cases e <;> cases h <;> simp
    · rw [hp] at h; cases h; simp

/-- A WIRE row, by whether the stream reaches the header's end (R92 check 4). -/
theorem readRecord_eq {s : State} {bs : List Byte} (hb : s.windowBytes = some bs) (h : Header) :
    s.readRecord h = .next (if s.rem < h.headerSize.toNat then (s.loadWindow bs).endEarly .shortRead s.cursor
      else (s.loadWindow bs).acceptHeader h) := by
  simp only [State.readRecord, hb]
  rfl

theorem readRecord_next {s t : State} {h : Header} (hx : s.readRecord h = .next t) :
    ∃ bs, s.windowBytes = some bs ∧
      ((s.rem < h.headerSize.toNat ∧ t = (s.loadWindow bs).endEarly .shortRead s.cursor) ∨
       (¬ s.rem < h.headerSize.toNat ∧ t = (s.loadWindow bs).acceptHeader h)) := by
  cases hb : s.windowBytes with
  | none => rw [State.readRecord, hb] at hx; cases hx
  | some bs =>
    refine ⟨bs, rfl, ?_⟩
    rw [readRecord_eq hb] at hx
    cases hx
    by_cases hr : s.rem < h.headerSize.toNat <;> simp [hr]

/-! ## The searches -/

theorem execSeekingSync_next {s t : State} (h : execSeekingSync s = .next t) :
    (∃ p, findSync s.stream s.rem s.cursor.toNat = .found p ∧ t = { s with cursor := u64 p, state := .readHeader }) ∨
    (findSync s.stream s.rem s.cursor.toNat = .endOfStream ∧
      t = State.raiseFatal { s with cursor := s.cfg.streamLen } .noSync s.cfg.streamLen) := by
  rw [execSeekingSync] at h
  cases hf : findSync s.stream s.rem s.cursor.toNat <;> rw [hf] at h <;> cases h
  · exact .inl ⟨_, rfl, rfl⟩
  · exact .inr ⟨rfl, rfl⟩

theorem resyncFrom_next {s t : State} {c : Nat} (h : s.resyncFrom c = .next t) :
    (∃ p, findCandidate s.stream s.lastFamily (s.len - c) c = .found p ∧
      t = { s with cursor := u64 p, state := .readHeader }) ∨
    (findCandidate s.stream s.lastFamily (s.len - c) c = .endOfStream ∧
      t = s.endEarly .resyncEof s.cfg.streamLen) := by
  rw [State.resyncFrom] at h
  cases hf : findCandidate s.stream s.lastFamily (s.len - c) c <;> rw [hf] at h <;> cases h
  · exact .inl ⟨_, rfl, rfl⟩
  · exact .inr ⟨rfl, rfl⟩

theorem tryCandidate_next {s t : State} {f : Byte} (h : s.tryCandidate f = .next t) :
    (s.cursor.toNat + 3 < s.len ∧ f = s.lastFamily ∧ t = { s with state := .readHeader }) ∨
    s.resyncFrom (s.cursor.toNat + 1) = .next t := by
  rw [State.tryCandidate] at h
  split at h
  next hc => cases h; exact .inl ⟨hc.1, hc.2, by simp [u64]⟩
  next => exact .inr h

/-- The resynchronizer's search over a loaded stream: the least plausible header, or the early-EOF exit (R101). -/
theorem resyncFrom_first {s : State} (hl : s.StreamLoaded) {c : Nat} (hc : c ≤ s.len) :
    (∀ p, c ≤ p → s.Plausible p → (∀ a, c ≤ a → a < p → ¬ s.Plausible a) →
      s.resyncFrom c = .next { s with cursor := u64 p, state := .readHeader }) ∧
    ((∀ a, c ≤ a → ¬ s.Plausible a) → s.resyncFrom c = .next (s.endEarly .resyncEof s.cfg.streamLen)) := by
  have key := findCandidate_spec s (s.len - c) c (by omega)
  simp only [State.resyncFrom]
  cases hf : findCandidate s.stream s.lastFamily (s.len - c) c with
  | found q =>
    simp only [hf] at key
    obtain ⟨k1, k2, k3⟩ := key
    refine ⟨fun p h1 h2 h3 => ?_, fun h => absurd k2 (h q k1)⟩
    rcases Nat.lt_trichotomy q p with h | rfl | h
    · exact absurd k2 (h3 _ k1 h)
    · rfl
    · exact absurd h2 (k3 _ h1 h)
  | endOfStream =>
    simp only [hf] at key
    exact ⟨fun p h1 h2 => absurd h2 (key p h1), fun _ => rfl⟩
  | absent =>
    simp only [hf] at key
    obtain ⟨a, _, k2, k3⟩ := key
    have := hl a k2
    simp [k3] at this

/-! ## The validations and the payload -/

/-- The state VALIDATE_HEADER leaves on a match (R116). -/
def State.headerChecked (s : State) : State :=
  { s with cksumOut := cksum s.headerSpan, calcHdrCksum := cksum s.headerSpan, state := .readPayload }

theorem execValidateHeader_eq (s : State) :
    execValidateHeader s = .next (if s.mismatch (cksum s.headerSpan) s.h.headerChecksum then
        { s.headerChecked with
          checksumFailures := satInc32 s.checksumFailures, log := s.log ++ [(.hdrCksum, s.hdrStart)] }
      else s.headerChecked) := by
  have h0 : execValidateHeader s = .next
      { (if s.mismatch (cksum s.headerSpan) s.h.headerChecksum = true then
          { s.headerChecked with
            state := s.state, checksumFailures := satInc32 s.checksumFailures,
            log := s.log ++ [(.hdrCksum, s.hdrStart)] }
        else { s.headerChecked with state := s.state }) with state := .readPayload } := rfl
  rw [h0]
  split <;> rfl

/-- The state READ_PAYLOAD leaves with the payload read (R117). -/
def State.payloadRead (s : State) (bs : List Byte) : State :=
  { s with
    pbufCap := s.growPbuf.pbufCap, payloadStart := s.cursor, pbuf := bs,
    cursor := u64 (s.cursor.toNat + s.h.dataSize.toNat), state := .validatePayload }

theorem execReadPayload_eq (s : State) :
    execReadPayload s = if s.rem < s.h.dataSize.toNat then .next (s.growPbuf.endEarly .shortRead s.hdrStart)
      else match s.payloadBytes with
        | none => .fault .streamByteAbsent
        | some bs => .next (s.payloadRead bs) := rfl

theorem execReadPayload_next {s t : State} (h : execReadPayload s = .next t) :
    (s.rem < s.h.dataSize.toNat ∧ t = s.growPbuf.endEarly .shortRead s.hdrStart) ∨
    (¬ s.rem < s.h.dataSize.toNat ∧ ∃ bs, s.payloadBytes = some bs ∧ t = s.payloadRead bs) := by
  rw [execReadPayload_eq] at h
  split at h
  next hr => cases h; exact .inl ⟨hr, rfl⟩
  next hr =>
    refine .inr ⟨hr, ?_⟩
    cases hb : s.payloadBytes <;> rw [hb] at h <;> cases h
    exact ⟨_, rfl, rfl⟩

/-- The state with the payload checksum computed and latched (R118). -/
def State.payloadChecked (s : State) (c : U16) : State := { s with cksumOut := c, calcPayCksum := c }

/-- The state with a payload mismatch counted and logged (R118). -/
def State.payloadFailed (s : State) (c : U16) : State :=
  { s.payloadChecked c with
    checksumFailures := satInc32 s.checksumFailures, log := s.log ++ [(.payloadCksum, s.hdrStart)] }

theorem execValidatePayload_eq {s : State} {span : List Byte} (hs : s.payloadSpan = some span) :
    execValidatePayload s = .next (if s.mismatch (cksum span) s.h.dataChecksum then
        (if 100 < (satInc32 s.checksumFailures).toNat then
          (s.payloadFailed (cksum span)).raiseFatal .cksumCap s.hdrStart
        else { s.payloadFailed (cksum span) with state := .resync })
      else { s.payloadChecked (cksum span) with state := .emit }) := by
  rw [execValidatePayload, hs]
  show ((if s.mismatch (cksum span) s.h.dataChecksum = true then
      (if decide (100 < (satInc32 s.checksumFailures).toNat) = true then
        .next ((s.payloadFailed (cksum span)).raiseFatal .cksumCap s.hdrStart)
      else .next { s.payloadFailed (cksum span) with state := .resync })
    else .next { s.payloadChecked (cksum span) with state := .emit }) : Out) = _
  simp only [decide_eq_true_eq]
  split_ifs <;> rfl

theorem execValidatePayload_next {s t : State} (h : execValidatePayload s = .next t) :
    ∃ span, s.payloadSpan = some span ∧
      ((s.mismatch (cksum span) s.h.dataChecksum = true ∧ 100 < (satInc32 s.checksumFailures).toNat ∧
          t = (s.payloadFailed (cksum span)).raiseFatal .cksumCap s.hdrStart) ∨
       (s.mismatch (cksum span) s.h.dataChecksum = true ∧ ¬ 100 < (satInc32 s.checksumFailures).toNat ∧
          t = { s.payloadFailed (cksum span) with state := .resync }) ∨
       (s.mismatch (cksum span) s.h.dataChecksum = false ∧
          t = { s.payloadChecked (cksum span) with state := .emit })) := by
  cases hs : s.payloadSpan with
  | none => rw [execValidatePayload, hs] at h; cases h
  | some span =>
    refine ⟨span, rfl, ?_⟩
    rw [execValidatePayload_eq hs] at h
    cases h
    cases s.mismatch (cksum span) s.h.dataChecksum
    · simp
    · by_cases hc : 100 < (satInc32 s.checksumFailures).toNat <;> simp [hc]

theorem mismatch_eq_false {s : State} {c d : U16} :
    s.mismatch c d = false ↔ s.cfg.ignoreChecksums = true ∨ c = d := by
  simp [State.mismatch]
  cases s.cfg.ignoreChecksums <;> simp

theorem mismatch_eq_true {s : State} {c d : U16} :
    s.mismatch c d = true ↔ s.cfg.ignoreChecksums = false ∧ c ≠ d := by
  simp [State.mismatch]

theorem payloadSpan_eq {s : State} {span : List Byte} (h : s.payloadSpan = some span) :
    s.h.dataSize.toNat ≤ s.pbuf.length ∧ span = s.pbuf.take s.h.dataSize.toNat := by
  rw [State.payloadSpan] at h
  split at h
  next hc => exact ⟨hc, (Option.some.inj h).symm⟩
  next => cases h

/-- `sat_32(v + 1)` below its bound (R16). -/
theorem satInc32_toNat (v : U32) : (satInc32 v).toNat = min (v.toNat + 1) 4294967295 := by
  rw [satInc32, BitVec.toNat_ofNat]; omega

/-! ## EMIT and the identifier rows -/

/-- The known identifiers, as numbers (R5, R67). -/
theorem known_iff : ∀ b : Byte,
    known b = decide (b.toNat ∈ [21, 22, 23, 24, 26, 27, 28, 29, 30, 31, 160]) := by decide

theorem decodeId_known : ∀ b : Byte, known b = true →
    (decodeId b, b) ∈ [(Instr.id21, (21 : Byte)), (.id22, 22), (.id23, 23), (.id24, 24), (.id26, 26), (.id27, 27),
      (.id28, 28), (.id29, 29), (.id30, 30), (.id31, 31), (.id160, 160)] := by decide

theorem decodeId_unknown : ∀ b : Byte, known b = false → decodeId b = .idUnknown b := by decide

/-- The ID row an identifier selects is its classification (R67). -/
theorem exec_decodeId (s : State) (b : Byte) : exec (decodeId b) s = s.classify b := by
  cases hk : known b
  · rw [decodeId_unknown b hk]; simp [State.classify, hk]; rfl
  · have := decodeId_known b hk
    simp only [List.mem_cons, Prod.mk.injEq, List.not_mem_nil, or_false] at this
    simp only [State.classify, hk, if_true]
    rcases this with ⟨h, rfl⟩ | ⟨h, rfl⟩ | ⟨h, rfl⟩ | ⟨h, rfl⟩ | ⟨h, rfl⟩ | ⟨h, rfl⟩ | ⟨h, rfl⟩ | ⟨h, rfl⟩ |
      ⟨h, rfl⟩ | ⟨h, rfl⟩ | ⟨h, rfl⟩ <;> rw [h] <;> rfl

/-- The state with the entry of the record in hand appended (R120). -/
def State.classified (s : State) (id : Byte) : State :=
  if known id then s.idxAppend s.entryOffset s.h.dataSize id true
  else (s.idxAppend s.entryOffset s.h.dataSize id false).logEvent .unknownId s.hdrStart

/-- All that the classified append changes: the index, its count and capacity, and the log. -/
theorem classified_frame (s : State) (id : Byte) :
    s.classified id = { s with
      count := u64 (s.count.toNat + 1), idxCap := s.idxGrow.idxCap,
      idx := (s.idxAppend s.entryOffset s.h.dataSize id (known id)).idx,
      log := if known id then s.log else s.log ++ [(.unknownId, s.hdrStart)] } := by
  cases hk : known id <;> simp only [State.classified, hk, if_true, Bool.false_eq_true, if_false] <;> rfl

theorem classify_eq (s : State) (id : Byte) :
    s.classify id = if s.count.toNat < s.params.indexMax.toNat then .next (s.classified id)
      else .fault .indexAppendPrecondition := by
  by_cases h : s.count.toNat < s.params.indexMax.toNat <;> cases hk : known id <;>
    simp [State.classify, State.classified, hk, State.indexKnown, State.indexUnknown, State.appendRecord,
      execIdxAppend, h]

theorem indexKnown_eq {s : State} (h : s.count.toNat < s.params.indexMax.toNat) (id : Byte) :
    s.indexKnown id = .next (s.idxAppend s.entryOffset s.h.dataSize id true) := by
  simp only [State.indexKnown, State.appendRecord, execIdxAppend, h, if_true]

theorem indexUnknown_eq {s : State} (h : s.count.toNat < s.params.indexMax.toNat) (id : Byte) :
    s.indexUnknown id =
      .next ((s.idxAppend s.entryOffset s.h.dataSize id false).logEvent .unknownId s.hdrStart) := by
  simp only [State.indexUnknown, State.appendRecord, execIdxAppend, h, if_true, State.idxAppend_hdrStart]

theorem stopOrGoOn_eq (t : State) : t.stopOrGoOn = { t with
    state := if (t.cfg.toArg ≠ 0 ∧ t.count.toNat = t.cfg.toArg.toNat) ∨ t.cursor = t.cfg.streamLen
      then .done else .readHeader } := by
  simp [State.stopOrGoOn, State.boundReached]

theorem stopOrGoOn_state (t : State) : t.stopOrGoOn.state = .done ∨ t.stopOrGoOn.state = .readHeader := by
  rw [stopOrGoOn_eq]
  split <;> simp

/-- All that EMIT changes when the index is not full (R120). -/
theorem emitted_frame (s : State) (id : Byte) : (s.classified id).stopOrGoOn = { s with
    count := u64 (s.count.toNat + 1), idxCap := s.idxGrow.idxCap,
    idx := (s.idxAppend s.entryOffset s.h.dataSize id (known id)).idx,
    log := if known id then s.log else s.log ++ [(.unknownId, s.hdrStart)],
    state := (s.classified id).stopOrGoOn.state } := by
  conv_lhs => rw [State.stopOrGoOn, classified_frame]
  rw [State.stopOrGoOn, classified_frame]

theorem emitted_idx (s : State) (id : Byte) : (s.classified id).stopOrGoOn.idx =
    (s.idxAppend s.entryOffset s.h.dataSize id (known id)).idx := by rw [emitted_frame]

theorem emitted_count (s : State) (id : Byte) : (s.classified id).stopOrGoOn.count = u64 (s.count.toNat + 1) := by
  rw [emitted_frame]

theorem execEmit_next {s t : State} (h : execEmit s = .next t) :
    (s.count = s.params.indexMax ∧ t = s.raiseFatal .indexFull s.hdrStart) ∨
    (s.count.toNat < s.params.indexMax.toNat ∧ t = (s.classified s.h.id).stopOrGoOn) := by
  rw [execEmit] at h
  split at h
  next hc => cases h; exact .inl ⟨hc, rfl⟩
  next hc =>
    rw [classify_eq] at h
    split at h
    next u hu =>
      split at hu
      next hlt => cases hu; cases h; exact .inr ⟨hlt, rfl⟩
      next => cases hu
    next => cases h
    next => cases h

theorem execEmit_eq {s : State} (h : s.count.toNat < s.params.indexMax.toNat) :
    execEmit s = .next (s.classified s.h.id).stopOrGoOn := by
  have hne : s.count ≠ s.params.indexMax := fun hh => by rw [hh] at h; omega
  simp only [execEmit, hne, if_false, classify_eq, h, if_true]

/-! ## One step -/

/-- The state's code selects its own operation (R110, R69). -/
theorem decodeState_code (x : ScanState) : decodeState (stateCode x) = .ok (operationOf x) := by cases x <;> rfl

/-- The block's step, no access of the host coming first. -/
theorem step_block {s : State} (h : s.host = []) : step s = exec (operationOf s.state) s := by
  simp only [step, State.fetch, h]

theorem operation_next {s t : State} (h : exec (operationOf s.state) s = .next t) :
    match s.state with
    | .idle | .done | .fatal => t = s
    | .seekingSync => execSeekingSync s = .next t
    | .readHeader => execReadHeader s = .next t
    | .validateHeader => execValidateHeader s = .next t
    | .readPayload => execReadPayload s = .next t
    | .validatePayload => execValidatePayload s = .next t
    | .emit => execEmit s = .next t
    | .resync => s.resyncFrom s.cursor.toNat = .next t := by
  revert h
  cases s.state <;> intro h <;> first | exact h | (cases h; rfl)

/-- A step of the block, by the state it is in. -/
theorem block_next {s t : State} (hh : s.host = []) (h : step s = .next t) :
    match s.state with
    | .idle | .done | .fatal => t = s
    | .seekingSync => execSeekingSync s = .next t
    | .readHeader => execReadHeader s = .next t
    | .validateHeader => execValidateHeader s = .next t
    | .readPayload => execReadPayload s = .next t
    | .validatePayload => execValidatePayload s = .next t
    | .emit => execEmit s = .next t
    | .resync => s.resyncFrom s.cursor.toNat = .next t := operation_next (by rw [← step_block hh]; exact h)

/-- A step of the block, whatever the host has pending after it, is the operation of the state register at the same state
but for the host's list (R52, R110). -/
theorem step_blockNext {s : State} (h : s.BlockNext) :
    ∃ rest, step s = exec (operationOf s.state) { s with host := rest } := by
  rcases h with h | ⟨rest, h⟩
  · exact ⟨s.host, step_block h⟩
  · exact ⟨rest, by simp only [step, State.fetch, h]⟩

/-- A run takes its first step first. -/
theorem run_succ {s t : State} (k : Nat) (h : step s = .next t) :
    Host.Core.run Sys2Proof.core (k + 1) s = Host.Core.run Sys2Proof.core k t := by
  simp only [Host.Core.run, show Sys2Proof.core.step s = .next t from h]

/-- What a command is: START or SOFT_RESET (R22, R69). -/
theorem commandOf_cases {o : Nat} {v : U32} {i : Instr} (h : commandOf o v = some i) : i = .start ∨ i = .softReset := by
  rw [commandOf] at h
  split at h
  · rw [decodeCtrl] at h
    split at h
    · cases h; exact .inr rfl
    · split at h <;> cases h
      exact .inl rfl
  · cases h

theorem execStart_next {s t : State} (h : execStart s = .next t) :
    (s.busy = true ∧ t = s) ∨
    (s.busy = false ∧ s.cfg.streamPresent = true ∧ t = { s.beginScan with state := .seekingSync }) ∨
    (s.busy = false ∧ s.cfg.streamPresent = false ∧ t = s.beginScan.raiseFatal .cannotOpen 0) := by
  rw [execStart] at h
  cases hb : s.busy <;> simp only [hb, Bool.false_eq_true, if_true, if_false] at h
  · cases hp : s.cfg.streamPresent <;> simp only [hp, Bool.false_eq_true, if_true, if_false] at h <;> cases h
    · exact .inr (.inr ⟨rfl, rfl, rfl⟩)
    · exact .inr (.inl ⟨rfl, rfl, rfl⟩)
  · cases h; exact .inl ⟨rfl, rfl⟩

/-- What a step can be: the operation of the state register, a command, or one of the host's accesses. -/
theorem step_next {s t : State} (h : step s = .next t) :
    (∃ rest, exec (operationOf s.state) { s with host := rest } = .next t) ∨
    (∃ rest, execStart { s with host := rest } = .next t) ∨
    (∃ rest, t = State.resetBlock { s with host := rest }) ∨
    (∃ rest o v, t = State.busWrite { s with host := rest } o v) ∨
    (∃ rest v, t = { s with host := rest, hostData := v }) ∨
    (∃ rest a v, s.busy = false ∧ t = { s with host := rest, stream := s.stream.write a v }) := by
  rw [step, State.fetch] at h
  split at h
  next i u hf =>
    split at hf
    · cases hf; exact .inl ⟨s.host, h⟩
    · cases hf; exact .inl ⟨_, h⟩
    · split at hf
      next hc =>
        cases hf
        rcases commandOf_cases hc with rfl | rfl
        · exact .inr (.inl ⟨_, h⟩)
        · cases h; exact .inr (.inr (.inl ⟨_, rfl⟩))
      next => cases hf
    all_goals cases hf
  next o hf =>
    split at hf
    · cases hf
    · cases hf
    · split at hf
      · cases hf
      · cases hf; cases h; exact .inr (.inr (.inr (.inl ⟨_, _, _, rfl⟩)))
    · cases hf; cases h; exact .inr (.inr (.inr (.inr (.inl ⟨_, _, rfl⟩))))
    · cases hf; cases h; exact .inr (.inr (.inr (.inr (.inl ⟨_, _, rfl⟩))))
    · cases hf
      rw [State.hostWriteStream] at h
      split at h
      · cases h
      next hb => cases h; exact .inr (.inr (.inr (.inr (.inr ⟨_, _, _, Bool.not_eq_true _ ▸ hb, rfl⟩))))
    · cases hf
      rw [State.hostReadStream] at h
      split at h
      · cases h
      · split at h
        · cases h; exact .inr (.inr (.inr (.inr (.inl ⟨_, _, rfl⟩))))
        · cases h
    · cases hf
      rw [State.hostReadIdx] at h
      split at h
      · cases h
      · split at h
        · split at h
          · cases h; exact .inr (.inr (.inr (.inr (.inl ⟨_, _, rfl⟩))))
          · cases h
        · cases h

/-! ## STATUS -/

theorem busy_eq (s : State) :
    s.busy = decide (1 ≤ (stateCode s.state).toNat ∧ (stateCode s.state).toNat ≤ 7) := by
  obtain ⟨x, hx⟩ : ∃ x, s.state = x := ⟨_, rfl⟩
  cases x <;> simp [State.busy, hx, stateCode]

theorem doneOut_eq (s : State) : s.doneOut = decide ((stateCode s.state).toNat = 8) := by
  obtain ⟨x, hx⟩ : ∃ x, s.state = x := ⟨_, rfl⟩
  cases x <;> simp [State.doneOut, hx, stateCode]

theorem fatalOut_eq (s : State) : s.fatalOut = decide ((stateCode s.state).toNat = 9) := by
  obtain ⟨x, hx⟩ : ∃ x, s.state = x := ⟨_, rfl⟩
  cases x <;> simp [State.fatalOut, hx, stateCode]

/-- STATUS as a number: its fields do not overlap (R22). -/
theorem status_toNat (s : State) :
    s.status.toNat = (stateCode s.state).toNat + bitAt s.busy 4 + bitAt s.doneOut 5 + bitAt s.fatalOut 6
      + bitAt s.earlyEof 8 + bitAt s.used12 9 + 4096 * (errorCode s.errCode).toNat := by
  have h1 := (stateCode s.state).isLt
  have h2 := (errorCode s.errCode).isLt
  rw [State.status, BitVec.toNat_ofNat]
  apply Nat.mod_eq_of_lt
  simp only [bitAt]
  split_ifs <;> omega

/-! ## Register writes -/

theorem busWrite_eq (s : State) (o : Nat) (v : U32) :
    s.busWrite o v = s ∨ (s.busy = false ∧ ∃ c, s.busWrite o v = { s with cfg := c }) := by
  rw [State.busWrite]
  split
  · split
    next => exact .inl rfl
    next hb => exact .inr ⟨by simpa using hb, _, rfl⟩
  · exact .inl rfl

/-! ## Canonical memories -/

theorem idxAppend_wf {s : State} (h : s.idx.wf) (o : U64) (n : U32) (i : Byte) (k : Bool) :
    (s.idxAppend o n i k).idx.wf := Memory.wf_writeBytes h _ _

theorem resetWith_wf (p : Config.Params) : (State.resetWith p).stream.wf ∧ (State.resetWith p).idx.wf := by
  constructor <;> exact List.Pairwise.nil

end Sys2Proof.Machine
end

