-- ==== Sys2Proof/Laws/Invariant.lean ====
section
/-! SUPPORT. What the parts of the invariant depend on, so that a step that leaves those fields alone keeps them, and what
the host's side of the state has to do with it: nothing. -/

namespace Sys2Proof.Machine

/-- The order of the index depends on the index, its count and the parameters; the bound may grow. -/
theorem State.IndexInOrder.congr {s t : State} {b c : Nat} (h : s.IndexInOrder b) (hi : t.idx = s.idx)
    (hc : t.count = s.count) (hp : t.params = s.params) (hb : b ≤ c) : t.IndexInOrder c := by
  refine ⟨fun i hlt => ?_, fun i e f hlt h1 h2 => ?_⟩
  · obtain ⟨e, h1, h2, h3, h4⟩ := h.entry i (by rw [← hc]; exact hlt)
    refine ⟨e, by rw [State.entryAt_congr hi]; exact h1, ?_, by rw [hp]; exact h3, h4⟩
    simp only [State.leftOut, hp] at h2 ⊢
    omega
  · rw [State.entryAt_congr hi] at h1 h2
    rw [hc] at hlt
    exact h.rising i e f hlt h1 h2

theorem State.HeaderInHand.congr {s t : State} (h : s.HeaderInHand) (h1 : t.stream = s.stream)
    (h2 : t.hdrStart = s.hdrStart) (h3 : t.h = s.h) (h4 : t.hbuf = s.hbuf) (h5 : t.lastFamily = s.lastFamily) :
    t.HeaderInHand := by
  refine ⟨?_, ?_, ?_⟩
  · rw [h1, h2, h3, h4]; exact h.bytes
  · rw [h3, h4]; exact h.fields
  · rw [h3, h5]; exact h.family

theorem State.PayloadInHand.congr {s t : State} (h : s.PayloadInHand) (h1 : t.stream = s.stream)
    (h2 : t.hdrStart = s.hdrStart) (h3 : t.h = s.h) (h4 : t.payloadStart = s.payloadStart)
    (h5 : t.cursor = s.cursor) (h6 : t.pbuf = s.pbuf) (h7 : t.pbufCap = s.pbufCap) : t.PayloadInHand := by
  refine ⟨?_, ?_, ?_, ?_⟩
  · rw [h2, h3, h4]; exact h.start
  · rw [h3, h4, h5]; exact h.cursor
  · rw [h1, h3, h4, h6]; exact h.bytes
  · rw [h3, h7]; exact h.room

/-- The scan's invariant says nothing about the host's side. -/
theorem State.ScanInv.host {s : State} (h : s.ScanInv) (r : List HostAccess) (d : U32) :
    State.ScanInv { s with host := r, hostData := d } :=
  { cursorInStream := h.cursorInStream, headerBehindCursor := h.headerBehindCursor, ignored := h.ignored,
    bound := h.bound, index := h.index.congr rfl rfl rfl (Nat.le_refl _), seeking := h.seeking,
    reading := h.reading,
    header := fun hs => ⟨(h.header hs).1.congr rfl rfl rfl rfl rfl, (h.header hs).2⟩,
    payload := fun hs =>
      ⟨(h.payload hs).1.congr rfl rfl rfl rfl rfl, (h.payload hs).2.congr rfl rfl rfl rfl rfl rfl rfl⟩,
    resyncing := h.resyncing }

/-- The invariant says nothing about the host's side. -/
theorem State.Inv.withHost {s : State} (h : s.Inv) (r : List HostAccess) (d : U32) :
    State.Inv { s with host := r, hostData := d } :=
  { streamForm := h.streamForm, idxForm := h.idxForm, params := h.params, error := h.error, eof := h.eof,
    cap := h.cap, idxCells := h.idxCells, countMax := h.countMax, capPositive := h.capPositive,
    countCap := h.countCap, idle := h.idle, scan := fun hb => (h.scan hb).host r d }

/-- While a scan runs there is no error and no early end (R125 items 5 and 7). -/
theorem State.Inv.running {s : State} (h : s.Inv) (hs : s.busy = true) :
    s.errCode = .none ∧ s.earlyEof = false := by
  constructor
  · by_contra hc
    have := h.error.1 hc
    rw [State.busy, this] at hs
    cases hs
  · by_contra hc
    have := h.eof (by simpa using hc)
    rw [State.busy, this] at hs
    cases hs

end Sys2Proof.Machine
end

