-- ==== Sys2Proof/Tests/Slice0.lean ====
section
/-! SUPPORT. The model's own tests: the check of WellFormed, words written out from the spec's encodings, one step or one
operation at a time on the spec's vectors (spec/95_test_vectors.md), and for every obligation that has hypotheses a
concrete state and operands that meet them. -/

namespace Sys2Proof.Tests

open Sys2Proof Sys2Proof.Machine

/-! ## Small states -/

/-- A stream space that holds these bytes from offset 0. -/
def put (bs : List Byte) : Memory := Memory.writeBytes [] 0 bs

/-- The block in a scanner state over a stream, everything else as after reset. -/
def scanOf (x : ScanState) (bs : List Byte) : State :=
  { State.reset with
    state := x, stream := put bs
    cfg := { Cfg.reset with streamLen := BitVec.ofNat 64 bs.length, streamPresent := true } }

/-- Record A of spec/95_test_vectors.md. -/
def recA : List Byte := [0xA5, 0x0A, 0x15, 0x10, 0x04, 0x00, 0x90, 0xBB, 0xDA, 0x8B, 0x01, 0x02, 0x03, 0x04]

/-- Record B of spec/95_test_vectors.md. -/
def recB : List Byte := [0xA5, 0x0C, 0x16, 0x10, 0x03, 0x00, 0x00, 0x00, 0x36, 0x3D, 0x80, 0x0F, 0xAA, 0xBB, 0xCC]

/-- The block with record A's header in hand, at its end. -/
def inHand (x : ScanState) : State :=
  { scanOf x recA with
    cursor := 10, hbuf := Window.ofBytes recA, h := Header.h10 0x15 0x10 4 0xBB90 0x8BDA }

/-- The block with record A's payload in hand. -/
def payloadIn (x : ScanState) (bs : List Byte) : State :=
  { inHand x with payloadStart := 10, cursor := 14, pbuf := bs, pbufCap := 4 }

/-- A check of the next state; a stop fails it. -/
def ends (o : Out) (p : State → Bool) : Bool :=
  match o with
  | .next t => p t
  | .fault _ => false
  | .refused _ => false

/-! ## WellFormed -/

/-- R67: 21 and 160 are known, so ID_UNKNOWN may not stand for them. -/
theorem test_unknown_of_a_known_id_refused :
    (Instr.idUnknown 21).wellFormed = false ∧ (Instr.idUnknown 160).wellFormed = false := by decide

theorem test_unknown_id_accepted : (Instr.idUnknown 25).wellFormed = true := by decide

/-! ## Decoding: words written out from the encodings -/

/-- R61: `10100101 00001010 i f n_lo n_hi d_lo d_hi h_lo h_hi`. -/
theorem test_decode_rec10 : decode .wire [0b10100101, 0b00001010, 0x15, 0x33, 0x00, 0x01, 0x34, 0x12, 0x78, 0x56, 0xEE]
    = .ok (.rec10 0x15 0x33 0x0100 0x1234 0x5678, [0xEE]) := by decide

/-- R62: `10100101 00001100 i f n0 n1 n2 n3 d_lo d_hi h_lo h_hi`. -/
theorem test_decode_rec12 :
    decode .wire [0b10100101, 0b00001100, 0xA0, 0x10, 0x78, 0x56, 0x34, 0x12, 0x01, 0x02, 0x03, 0x04]
    = .ok (.rec12 0xA0 0x10 0x12345678 0x0201 0x0403, []) := by decide

/-- R92: the order of the checks on bytes that are no header. -/
theorem test_decode_wire_rejects :
    decode .wire [0x00] = .error (.header .badSync) ∧ decode .wire [0xA5] = .error (.header .short) ∧
    decode .wire [0xA5, 0x0B] = .error (.header .badSize) ∧
    decode .wire [0xA5, 0x0C, 0, 0, 0, 0, 0, 0, 0, 0, 0] = .error (.header .short) := by decide

/-- R68. -/
theorem test_decode_candidates :
    decode .wire4 [0xA5, 0x0A, 0x99, 0x10, 7] = .ok (.resyncCandidate10 0x99 0x10, [7]) ∧
    decode .wire4 [0xA5, 0x0C, 0x00, 0x11] = .ok (.resyncCandidate12 0x00 0x11, []) ∧
    decode .wire4 [0xA5, 0x07, 0x00, 0x11] = .error (.header .badSize) := by decide

/-- R67: the eleven identifiers and their neighbours. -/
theorem test_decode_ids :
    [0x15, 0x16, 0x17, 0x18, 0x1A, 0x1B, 0x1C, 0x1D, 0x1E, 0x1F, 0xA0].map decodeId =
      [.id21, .id22, .id23, .id24, .id26, .id27, .id28, .id29, .id30, .id31, .id160] ∧
    [0, 20, 25, 32, 159, 161, 255].map decodeId =
      [.idUnknown 0, .idUnknown 20, .idUnknown 25, .idUnknown 32, .idUnknown 159, .idUnknown 161, .idUnknown 255] := by
  decide

/-- R13. -/
theorem test_decode_states :
    (List.range 10).map (fun c => (decodeState (BitVec.ofNat 4 c)).toOption) =
      [some .idle, some .seekingSync, some .readHeader, some .validateHeader, some .readPayload,
       some .validatePayload, some .emit, some .resync, some .done, some .fatal] ∧
    decodeState 10 = .error .reservedState ∧ decodeState 15 = .error .reservedState := by decide

/-- R150. -/
theorem test_decode_errors :
    (List.range 7).map (fun c => (decodeErr (BitVec.ofNat 4 c)).toOption) =
      [none, some .eOpen, some .eNoSync, some .eBadSync, some .eHdrSize, some .eCksumCap, some .eIndexFull] ∧
    decodeErr 7 = .error .noError := by decide

/-- R22: bit 1 wins over bit 0, the other bits are ignored. -/
theorem test_decode_commands :
    decodeCtrl 1 = .ok .start ∧ decodeCtrl 2 = .ok .softReset ∧ decodeCtrl 3 = .ok .softReset ∧
    decodeCtrl 0xFFFFFFFC = .error .noCommand ∧ decodeCtrl 0xFFFFFFFD = .ok .start := by decide

/-- R72: the table's numbering of WIRE and WIRE4 words. -/
theorem test_table_words :
    decodeTableWord 16 0xA50A = some (.rec10 0 0 0 0 0) ∧ decodeTableWord 16 0xA50C = some (.rec12 0 0 0 0 0) ∧
    decodeTableWord 32 0xA50C9910 = some (.resyncCandidate12 0x99 0x10) ∧
    decodeTableWord 8 0xA0 = some .id160 ∧ decodeTableWord 8 7 = some .resync := by decide

/-! ## The checksum engine (T2) -/

theorem test_cksum_tail : cksum [] = 0xB58C ∧ cksum [0x01, 0x02, 0x03] = 0xBA8D ∧
    cksum [0x01, 0x02, 0x03, 0x00] = 0xB790 ∧ cksum [0xFF] = 0xB48C := by decide

theorem test_cksum_header_spans : cksum [0xA5, 0x0A, 0x15, 0x10, 0x04, 0x00, 0x90, 0xBB] = 0x8BDA ∧
    cksum [0xA5, 0x0C, 0x16, 0x10, 0x03, 0x00, 0x00, 0x00, 0x36, 0x3D] = 0x0F80 := by decide

/-! ## The header reader (T3) -/

/-- HP1, HP13. -/
theorem test_read_header_h10 : ends (exec .readHeader (scanOf .readHeader recA)) (fun t =>
    t.h == ⟨0xA5, 10, 0x15, 0x10, 4, 0xBB90, 0x8BDA⟩ && t.cursor == 10 && t.state == .validateHeader &&
    !t.used12 && t.hbuf.toList == recA.take 12) = true := by decide

/-- HP2. -/
theorem test_read_header_h12 : ends (exec .readHeader (scanOf .readHeader recB)) (fun t =>
    t.h == ⟨0xA5, 12, 0x16, 0x10, 3, 0x3D36, 0x0F80⟩ && t.cursor == 12 && t.used12) = true := by decide

/-- HP6, HP8. -/
theorem test_read_header_fatal :
    ends (exec .readHeader (scanOf .readHeader [0x00])) (fun t => t.errCode == .badSync && t.state == .fatal) = true ∧
    ends (exec .readHeader (scanOf .readHeader [0xA5, 0x0B])) (fun t => t.errCode == .hdrSize && t.cursor == 0) = true := by
  decide

/-- HP7, HP14, HP9. -/
theorem test_read_header_short :
    ends (exec .readHeader (scanOf .readHeader [0xA5])) (fun t =>
      t.state == .done && t.earlyEof && t.cursor == 1 && t.log == [(.shortRead, 0)] &&
      t.hbuf.toList == 0xA5 :: List.replicate 11 0) = true ∧
    ends (exec .readHeader (scanOf .readHeader [0xA5, 0x0C])) (fun t => t.earlyEof && t.cursor == 2 && !t.used12) = true := by
  decide

/-! ## The resynchronizer (T4) -/

/-- RS4. -/
theorem test_resync_searches : ends (exec .resync (scanOf .resync
    [0xA5, 0x07, 0xA5, 0x0C, 0x00, 0x11, 0xA5, 0xA5, 0x0C, 0x1C, 0x10, 0x01, 0x00, 0x00, 0x00, 0x8C]))
    (fun t => t.cursor == 7 && t.state == .readHeader) = true := by decide

/-- RS7, RS8. -/
theorem test_resync_needs_the_family :
    ends (exec .resync (scanOf .resync [0xA5, 0x0A, 0x15])) (fun t =>
      t.earlyEof && t.cursor == 3 && t.log == [(.resyncEof, 3)] && t.state == .done) = true ∧
    ends (exec .resync (scanOf .resync [0xA5, 0x0A, 0x15, 0x10])) (fun t => t.cursor == 0 && t.state == .readHeader) = true := by
  decide

/-- RS6, RS5 for a WIRE4 row. -/
theorem test_candidate_family :
    ends (exec (.resyncCandidate10 0x15 0x11) { scanOf .resync [0xA5, 0x0A, 0x15, 0x11] with lastFamily := 0x11 })
      (fun t => t.cursor == 0 && t.state == .readHeader) = true ∧
    ends (exec (.resyncCandidate10 0x15 0x11) (scanOf .resync [0xA5, 0x0A, 0x15, 0x11])) (fun t => t.earlyEof) = true := by
  decide

/-! ## The scanner's states (T5) -/

/-- ST1. -/
theorem test_seeking_sync : ends (exec .seekingSync (scanOf .seekingSync [0x00, 0x11, 0x22, 0xA5]))
    (fun t => t.cursor == 3 && t.state == .readHeader) = true := by decide

/-- SC2. -/
theorem test_no_sync : ends (exec .seekingSync (scanOf .seekingSync [0x01, 0x02, 0x03]))
    (fun t => t.errCode == .noSync && t.errOffset == 3 && t.cursor == 3 && !t.earlyEof) = true := by decide

/-- ST3 for record A. -/
theorem test_validate_header : ends (exec .validateHeader (inHand .validateHeader)) (fun t =>
    t.state == .readPayload && t.calcHdrCksum == 0x8BDA && t.checksumFailures == 0 && t.log == []) = true := by decide

/-- ST10: a header mismatch at 100 is counted, not fatal. -/
theorem test_validate_header_lenient :
    ends (exec .validateHeader { inHand .validateHeader with h := Header.h10 0x15 0x10 4 0xBB90 0x7425, checksumFailures := 100 })
      (fun t => t.state == .readPayload && t.checksumFailures == 101 && t.log == [(.hdrCksum, 0)]) = true := by decide

/-- ST4 for record A. -/
theorem test_read_payload : ends (exec .readPayload (inHand .readPayload)) (fun t =>
    t.state == .validatePayload && t.payloadStart == 10 && t.pbuf == [1, 2, 3, 4] && t.pbufCap == 4 &&
    t.cursor == 14) = true := by decide

/-- ST14. -/
theorem test_read_payload_short :
    ends (exec .readPayload { inHand .readPayload with h := Header.h10 0x15 0x10 5 0xBB90 0x8BDA }) (fun t =>
      t.state == .done && t.earlyEof && t.cursor == 14 && t.pbufCap == 5 && t.payloadStart == 0 &&
      t.log == [(.shortRead, 0)]) = true := by decide

/-- ST5: the third payload byte changed. -/
theorem test_validate_payload_mismatch :
    ends (exec .validatePayload (payloadIn .validatePayload [0x01, 0x02, 0xFC, 0x04])) (fun t =>
      t.state == .resync && t.calcPayCksum == 0xBC89 && t.checksumFailures == 1 &&
      t.log == [(.payloadCksum, 0)]) = true := by decide

/-- ST8, ST9. -/
theorem test_checksum_cap :
    ends (exec .validatePayload { payloadIn .validatePayload [0x01, 0x02, 0xFC, 0x04] with checksumFailures := 100 })
      (fun t => t.state == .fatal && t.checksumFailures == 101 && errorCode t.errCode == 5) = true ∧
    ends (exec .validatePayload { payloadIn .validatePayload [0x01, 0x02, 0xFC, 0x04] with checksumFailures := 99 })
      (fun t => t.state == .resync && t.checksumFailures == 100) = true := by decide

/-- ST7, BF1's first entry. -/
theorem test_emit : ends (exec .emit (payloadIn .emit [1, 2, 3, 4])) (fun t =>
    t.state == .done && t.count == 1 && t.entryAt 0 == some ⟨10, 4, 0x15, true⟩ &&
    t.idx.readSpan 0 16 == some [0x0A, 0, 0, 0, 0, 0, 0, 0, 0x04, 0, 0, 0, 0x15, 0x01, 0, 0]) = true := by decide

/-- ST12, ST13: the stop test before the end of the stream. -/
theorem test_emit_bound :
    let s : State := { payloadIn .emit [1, 2, 3, 4] with cursor := 13 }
    ends (exec .emit s) (fun t => t.state == .readHeader) = true ∧
    ends (exec .emit { s with cfg := { s.cfg with toArg := 1 } }) (fun t => t.state == .done) = true := by decide

/-! ## Identifiers, buffers, registers (T7) -/

/-- BF2's first entry: an unknown identifier is flagged and logged. -/
theorem test_unknown_id : ends (exec (.idUnknown 0x19) (payloadIn .emit [1, 2, 3, 4])) (fun t =>
    t.entryAt 0 == some ⟨10, 4, 0x19, false⟩ && t.log == [(.unknownId, 0)]) = true := by decide

theorem test_known_id : ends (exec .id160 (payloadIn .emit [1, 2, 3, 4])) (fun t =>
    t.entryAt 0 == some ⟨10, 4, 0xA0, true⟩ && t.log == []) = true := by decide

/-- R142's example. -/
theorem test_idx_append : ends (exec (.idxAppend 27 2 0x1A true) State.reset) (fun t =>
    t.idx.readSpan 0 16 == some [0x1B, 0, 0, 0, 0, 0, 0, 0, 0x02, 0, 0, 0, 0x1A, 0x01, 0, 0] && t.count == 1) = true := by
  decide

/-- BF3: the second append doubles a capacity of 1. -/
theorem test_idx_grow : ends (exec (.idxAppend 0 0 0 true) { State.reset with count := 1, idxCap := 1 })
    (fun t => t.idxCap == 2) = true := by decide

/-- R145's example. -/
theorem test_pbuf_grow :
    ends (exec .pbufGrow { inHand .readPayload with pbufCap := 9 }) (fun t => t.pbufCap == 9) = true ∧
    ends (exec .pbufGrow (inHand .readPayload)) (fun t => t.pbufCap == 4) = true := by decide

/-- BF6, BF7. -/
theorem test_status : State.reset.busRead 0x04 = 0 ∧ (scanOf .seekingSync []).busRead 0x04 = 0x11 := by decide

/-- BF13's packing, for record A's window. -/
theorem test_window_registers : (inHand .readPayload).busRead 0x60 = 0x10150AA5 ∧
    (inHand .readPayload).busRead 0x64 = 0xBB900004 ∧ (inHand .readPayload).busReadByte 0x6A = 0x01 := by decide

/-- BF11: SC3, SC2. -/
theorem test_status_fatal :
    ends (exec .start { scanOf .idle recA with cfg := Cfg.reset }) (fun t => t.busRead 0x04 == 0x1049) = true ∧
    ends (exec .seekingSync (scanOf .seekingSync [])) (fun t => t.busRead 0x04 == 0x2049) = true := by decide

/-- R111: START is ignored while busy. -/
theorem test_start : ends (exec .start (scanOf .done recA)) (fun t =>
    t.state == .seekingSync && t.lastFamily == 0x10 && t.idxCap == 1024 && t.cfg == (scanOf .done recA).cfg) = true ∧
    ends (exec .start (inHand .readPayload)) (fun t => t == inHand .readPayload) = true := by decide

/-- R171 with R170. -/
theorem test_soft_reset : ends (exec .softReset (inHand .readPayload)) (fun t =>
    t.state == .idle && t.cursor == 0 && t.cfg == Cfg.reset && t.idxCap == 1024) = true := by decide

/-- The memory after reset and after a write is in its canonical form. -/
theorem test_memory_form : State.reset.stream.wf ∧ State.reset.idx.wf ∧ (put recA).wf ∧
    Memory.write [(1, 7), (5, 8)] 3 9 = [(1, 7), (3, 9), (5, 8)] := by decide

/-- A table word placed by `withFetchWord` is what the next step runs. -/
theorem test_withFetchWord :
    ends (step (State.reset.withFetchWord 16 0xA50C)) (fun t => t.h.headerSize == 12 && t.used12) = true ∧
    ends (step (State.reset.withFetchWord 8 0xA0)) (fun t => t.entryAt 0 == some ⟨0, 0, 0xA0, true⟩) = true := by decide

/-! ## States that meet the invariant -/

/-- A state with an empty index, out of a scan. -/
theorem inv_quiet {s : State} (h1 : s.stream.wf) (h2 : s.idx = []) (h3 : s.count = 0) (h4 : s.params.Admissible)
    (h5 : s.errCode ≠ .none ↔ s.state = .fatal) (h6 : s.earlyEof = false) (h7 : s.cursor = 0)
    (h8 : 1 ≤ s.idxCap.toNat) (h9 : s.checksumFailures = 0) (h10 : s.busy = true → s.ScanInv) : s.Inv := by
  refine { streamForm := h1, idxForm := ?_, params := h4, error := h5, eof := ?_, cap := ?_, idxCells := ?_,
           countMax := ?_, capPositive := h8, countCap := ?_, idle := fun _ => ⟨h7, h3⟩, scan := h10 }
  · rw [h2]; exact List.Pairwise.nil
  · rw [h6]; intro h; cases h
  · intro _ _; rw [h9]; exact Nat.zero_le _
  · intro a; rw [h2, h3]; simp [Memory.read]
  · rw [h3]; exact Nat.zero_le _
  · rw [h3]; exact Nat.zero_le _

/-- A scan that has just begun. -/
theorem scanInv_start (bs : List Byte) : (scanOf .seekingSync bs).ScanInv := by
  refine { cursorInStream := Nat.zero_le _, headerBehindCursor := Nat.zero_le _, ignored := fun _ => rfl,
           bound := fun h => absurd rfl h, index := ⟨?_, ?_⟩, seeking := fun _ => ⟨rfl, rfl⟩, reading := ?_,
           header := ?_, payload := ?_, resyncing := ?_ }
  · intro i hi; exact absurd hi (Nat.not_lt_zero _)
  · intro i e f hi; exact absurd hi (Nat.not_lt_zero _)
  · intro h; cases h
  · rintro (h | h) <;> cases h
  · rintro (h | h | h) <;> cases h
  · intro h; cases h

theorem inv_start : (scanOf .seekingSync recA).Inv :=
  inv_quiet (by decide) rfl rfl (by decide) (by decide) rfl rfl (by decide) rfl fun _ => scanInv_start recA

theorem inv_idle : (scanOf .idle recA).Inv :=
  inv_quiet (by decide) rfl rfl (by decide) (by decide) rfl rfl (by decide) rfl fun h => by cases h

theorem inv_done : (scanOf .done recA).Inv :=
  inv_quiet (by decide) rfl rfl (by decide) (by decide) rfl rfl (by decide) rfl fun h => by cases h

theorem inv_fatal : State.Inv { scanOf .fatal recA with errCode := .badSync } :=
  inv_quiet (by decide) rfl rfl (by decide) (by decide) rfl rfl (by decide) rfl fun h => by cases h

/-! ## Witnesses: states and operands that meet the hypotheses of each obligation -/

theorem witness_StepRunsSelectedOperation :
    decodeState (stateCode State.reset.state) = .ok .idle ∧ State.reset.host = [] ∧
    State.host { scanOf .resync recA with host := [.pass] } = .pass :: [] := by decide

theorem witness_ControlWriteRunsCommand :
    (2 : U32).getLsbD 1 = true ∧ ((1 : U32).getLsbD 1 = false ∧ (1 : U32).getLsbD 0 = true) ∧
    ((0 : U32).getLsbD 1 = false ∧ (0 : U32).getLsbD 0 = false) ∧ (3 : U32).getLsbD 1 = true ∧
    State.host { State.reset with host := [.writeReg 0 3] } = .writeReg 0 3 :: [] := by decide

theorem witness_ReadHeaderRunsRecordAtCursor :
    let s := scanOf .readHeader recA
    s.stream.readSpan s.cursor.toNat (min 12 (s.len - s.cursor.toNat)) = some (recA.take 12) ∧
    decode .wire (recA.take 12) = .ok (.rec10 0x15 0x10 4 0xBB90 0x8BDA, [1, 2]) := by decide

theorem witness_ResyncRunsCandidateAtCursor :
    let s := scanOf .resync (recA.take 4)
    s.cursor.toNat + 4 ≤ s.len ∧ s.stream.readSpan s.cursor.toNat 4 = some (recA.take 4) ∧
    decode .wire4 (recA.take 4) = .ok (.resyncCandidate10 0x15 0x10, []) := by decide

theorem witness_EmitRunsIdentifierRow : (inHand .emit).count ≠ (inHand .emit).params.indexMax := by decide

theorem witness_DecodeEncodeEveryInstruction :
    (Instr.idUnknown 25).wellFormed = true ∧ (Instr.rec12 1 2 3 4 5).wellFormed = true ∧
    Instr.pbufGrow.wellFormed = true := by decide

theorem witness_AcceptedBytesAreTheEncoding :
    decode .wire (recB.take 12) = .ok (.rec12 0x16 0x10 3 0x3D36 0x0F80, []) ∧
    decode .wire4 [0xA5, 0x0A, 0, 1] = .ok (.resyncCandidate10 0 1, []) ∧
    decode .ident [255] = .ok (.idUnknown 255, []) := by decide

theorem witness_StartBeginsAFreshScan :
    (1 ≤ (stateCode ScanState.seekingSync).toNat ∧ (stateCode ScanState.resync).toNat ≤ 7) ∧
    (scanOf .idle recA).state = .idle ∧ (scanOf .done recA).state = .done ∧ (scanOf .fatal recA).state = .fatal ∧
    (scanOf .idle recA).cfg.streamPresent = true ∧ State.reset.cfg.streamPresent = false := by decide

theorem witness_ScanStartForgetsHistory :
    let s := scanOf .done recA
    let t : State := { scanOf .idle recA with count := 5, cursor := 9, log := [(.unknownId, 3)] }
    s.busy = false ∧ t.busy = false ∧ s.cfg = t.cfg ∧ s.stream = t.stream ∧ s.params = t.params ∧ s.host = t.host ∧
    s.hostData = t.hostData := by decide

theorem witness_SeekingSyncFindsFirstSyncByte :
    (let s := scanOf .seekingSync [0, 1, 0xA5]
     s.StreamLoaded ∧ s.cursor.toNat ≤ s.len ∧ s.stream.read 2 = some 0xA5 ∧
     ∀ a, a < 2 → s.stream.read a ≠ some 0xA5) ∧
    (let s := scanOf .seekingSync [0, 1]
     s.StreamLoaded ∧ ∀ a, a < s.len → s.stream.read a ≠ some 0xA5) := by decide

/-- Each check of R92 at its boundary: a bad sync byte, one byte left, a size of 11, nine bytes of a header of 10, eleven of
a header of 12. -/
theorem witness_ReadHeaderChecksInOrder :
    let ok := fun (s : State) (w : Window) => s.StreamLoaded ∧ s.cursor.toNat < s.len ∧ s.WindowAtCursor w
    (ok (scanOf .readHeader [7]) (Window.ofBytes [7]) ∧ (scanOf .readHeader [7]).stream.read 0 ≠ some 0xA5) ∧
    (ok (scanOf .readHeader [0xA5]) (Window.ofBytes [0xA5]) ∧ (scanOf .readHeader [0xA5]).len < 2) ∧
    (ok (scanOf .readHeader [0xA5, 11]) (Window.ofBytes [0xA5, 11]) ∧
      (scanOf .readHeader [0xA5, 11]).stream.read 1 = some 11) ∧
    (ok (scanOf .readHeader (recA.take 9)) (Window.ofBytes (recA.take 9)) ∧
      (scanOf .readHeader (recA.take 9)).len < (10 : Byte).toNat) ∧
    (ok (scanOf .readHeader (recB.take 11)) (Window.ofBytes (recB.take 11)) ∧
      (scanOf .readHeader (recB.take 11)).len < (12 : Byte).toNat) := by decide

theorem witness_ReadHeaderDecodesH10 :
    let s := scanOf .readHeader (recA.take 10)
    s.StreamLoaded ∧ s.cursor.toNat + 10 ≤ s.len ∧ s.WindowAtCursor (Window.ofBytes (recA.take 10)) ∧
    s.Holds s.cursor.toNat [0xA5, 0x0A, 0x15, 0x10, 0x04, 0x00, 0x90, 0xBB, 0xDA, 0x8B] := by decide

theorem witness_ReadHeaderDecodesH12 :
    let s := scanOf .readHeader (recB.take 12)
    s.StreamLoaded ∧ s.cursor.toNat + 12 ≤ s.len ∧ s.WindowAtCursor (Window.ofBytes (recB.take 12)) ∧
    s.Holds s.cursor.toNat [0xA5, 0x0C, 0x16, 0x10, 0x03, 0x00, 0x00, 0x00, 0x36, 0x3D, 0x80, 0x0F] := by decide

theorem witness_RecordRowsReadTheHeader :
    (∀ n ∈ [9, 10], let s := scanOf .readHeader (recA.take n)
      s.StreamLoaded ∧ s.WindowAtCursor (Window.ofBytes (recA.take n))) ∧
    (scanOf .readHeader (recA.take 10)).cursor.toNat + 10 ≤ (scanOf .readHeader (recA.take 10)).len ∧
    (scanOf .readHeader (recA.take 9)).len < (scanOf .readHeader (recA.take 9)).cursor.toNat + 10 ∧
    (∀ n ∈ [11, 12], let s := scanOf .readHeader (recB.take n)
      s.StreamLoaded ∧ s.WindowAtCursor (Window.ofBytes (recB.take n))) ∧
    (scanOf .readHeader (recB.take 12)).cursor.toNat + 12 ≤ (scanOf .readHeader (recB.take 12)).len ∧
    (scanOf .readHeader (recB.take 11)).len < (scanOf .readHeader (recB.take 11)).cursor.toNat + 12 := by decide

theorem witness_ValidateHeaderIsLenient :
    let span := fun (s : State) => s.hbuf.toList.take (s.h.headerSize.toNat - 2)
    let s := inHand .validateHeader
    let t : State := { s with h := Header.h10 0x15 0x10 4 0xBB90 0 }
    cksum (span s) = s.h.headerChecksum ∧ t.cfg.ignoreChecksums = false ∧ cksum (span t) ≠ t.h.headerChecksum := by
  decide

theorem witness_ReadPayloadReadsOrEndsEarly :
    let s := inHand .readPayload
    let t : State := { s with cursor := 11 }
    (s.h.dataSize.toNat ≤ s.len - s.cursor.toNat ∧
      s.stream.readSpan s.cursor.toNat s.h.dataSize.toNat = some [1, 2, 3, 4]) ∧
    t.len - t.cursor.toNat < t.h.dataSize.toNat := by decide

theorem witness_ValidatePayloadCountsAndCaps :
    let s := payloadIn .validatePayload [1, 2, 3, 4]
    let t := payloadIn .validatePayload [1, 2, 0xFC, 4]
    (s.h.dataSize.toNat ≤ s.pbuf.length ∧ cksum (s.pbuf.take s.h.dataSize.toNat) = s.h.dataChecksum) ∧
    (t.h.dataSize.toNat ≤ t.pbuf.length ∧ t.cfg.ignoreChecksums = false ∧
      cksum (t.pbuf.take t.h.dataSize.toNat) ≠ t.h.dataChecksum) ∧
    100 < min ((100 : U32).toNat + 1) 4294967295 ∧ min ((99 : U32).toNat + 1) 4294967295 ≤ 100 := by decide

/-- A state with no offset that is plausible at or after 0. -/
theorem no_plausible : ∀ a, ¬ (scanOf .resync [0xA5, 0x0A, 0x15]).Plausible a := fun a h => by
  have := h.1
  simp only [scanOf, State.len] at this
  exact absurd this (by simp)

theorem witness_ResyncFindsFirstPlausibleHeader :
    (let s := scanOf .resync [7, 0xA5, 0x0C, 0x99, 0x10]
     s.StreamLoaded ∧ s.cursor.toNat ≤ s.len ∧ s.Plausible 1 ∧ ∀ a, a < 1 → ¬ s.Plausible a) ∧
    (let s := scanOf .resync [0xA5, 0x0A, 0x15]
     s.StreamLoaded ∧ s.cursor.toNat ≤ s.len ∧ ∀ a, s.cursor.toNat ≤ a → ¬ s.Plausible a) :=
  ⟨by decide, by decide, by decide, fun a _ => no_plausible a⟩

theorem witness_CandidateRowsAcceptOrSearchOn :
    (let s := scanOf .resync [0xA5, 0x0A, 0x15, 0x10]
     s.StreamLoaded ∧ s.cursor.toNat < s.len ∧ s.cursor.toNat + 3 < s.len ∧ (0x10 : Byte) = s.lastFamily) ∧
    (let s := scanOf .resync [0xA5, 0x0A, 0x15, 0x11, 0xA5, 0x0A, 0x15, 0x10]
     s.StreamLoaded ∧ (0x11 : Byte) ≠ s.lastFamily ∧ s.Plausible 4 ∧ ∀ a, a < 4 → 0 < a → ¬ s.Plausible a) ∧
    (let s := scanOf .resync [0xA5, 0x0A, 0x15]
     s.StreamLoaded ∧ s.cursor.toNat < s.len ∧ s.len ≤ s.cursor.toNat + 3 ∧
     ∀ a, s.cursor.toNat < a → ¬ s.Plausible a) :=
  ⟨by decide, by decide, by decide, by decide, by decide, fun a _ => no_plausible a⟩

theorem witness_EmitAppendsTheRecord :
    let s := payloadIn .emit [1, 2, 3, 4]
    let t : State := { s with count := s.params.indexMax }
    s.count.toNat < s.params.indexMax.toNat ∧ t.count = t.params.indexMax := by decide

theorem witness_IdentifierRowsAppendTheirEntry :
    let s := payloadIn .emit [1, 2, 3, 4]
    s.count.toNat < s.params.indexMax.toNat ∧ (Instr.idUnknown 25).wellFormed = true := by decide

theorem witness_TerminalStatesTakeNoStep :
    (scanOf .idle recA).host = [] ∧ (scanOf .idle recA).state = .idle ∧ (scanOf .done recA).state = .done ∧
    (scanOf .fatal recA).state = .fatal := by decide

theorem witness_ChecksumIgnoresPairOrder :
    List.Perm [((1 : Byte), (2 : Byte)), (3, 4)] [(3, 4), (1, 2)] := by decide

theorem witness_ChecksumSeesOneByte : (0x03 : Byte) ≠ 0xFC := by decide

theorem witness_ChecksumZeroSpanAndOddTail : ([1, 2] : List Byte).length % 2 = 0 := by decide

theorem witness_IdxAppendWritesSixteenBytes :
    State.reset.count.toNat < State.reset.params.indexMax.toNat ∧
    (let s : State := { State.reset with count := State.reset.params.indexMax }
     s.params.indexMax.toNat ≤ s.count.toNat) := by decide

theorem witness_PbufGrowFollowsDataSize :
    (inHand .readPayload).pbufCap.toNat < (inHand .readPayload).h.dataSize.toNat ∧
    (payloadIn .readPayload []).h.dataSize.toNat ≤ (payloadIn .readPayload []).pbufCap.toNat := by decide

theorem witness_RaiseRecordsCodeAndOffset : decodeErr 1 = .ok .eOpen ∧ decodeErr 6 = .ok .eIndexFull := by decide

theorem witness_RegisterReadsShowTheState :
    State.host { State.reset with host := [.readReg 0x74] } = .readReg 0x74 :: [] ∧
    State.host { State.reset with host := [.readRegByte 0x6B] } = .readRegByte 0x6B :: [] ∧
    (11 < 12 ∧ 0x78 ≤ 0x78 ∧ 0x75 % 4 ≠ 0) := by decide

theorem witness_RegisterWritesOnlyWhenIdle :
    State.host { State.reset with host := [.writeReg 0x24 5] } = .writeReg 0x24 5 :: [] ∧
    State.reset.busy = false ∧ (scanOf .resync []).busy = true ∧
    (0x08 ∈ [0x08, 0x0C, 0x10, 0x14, 0x18, 0x20, 0x24] ∧ 0x24 ∈ [0x08, 0x0C, 0x10, 0x14, 0x18, 0x20, 0x24]) ∧
    0x04 ∉ [0x08, 0x0C, 0x10, 0x14, 0x18, 0x20, 0x24] := by decide

theorem witness_HostMemoryAccessNeedsIdle :
    (scanOf .idle recA).busy = false ∧ (scanOf .emit recA).busy = true ∧
    (scanOf .idle recA).stream.read (13 : U64).toNat = some 4 ∧ (scanOf .idle recA).stream.read (14 : U64).toNat = none ∧
    (let s : State := { scanOf .done recA with count := 1, idx := Memory.writeBytes [] 0 (List.replicate 16 9) }
     15 < 16 * s.count.toNat ∧ s.idx.read 15 = some 9 ∧ 16 * s.count.toNat ≤ 16 ∧ s.busy = false) := by decide

theorem witness_ResultOfAScan :
    ((scanOf .done recA).Inv ∧ (scanOf .done recA).state = .done) ∧
    (State.Inv { scanOf .fatal recA with errCode := .badSync } ∧
      State.state { scanOf .fatal recA with errCode := .badSync } = .fatal) ∧
    ((scanOf .idle recA).Inv ∧ (scanOf .idle recA).state ≠ .done ∧ (scanOf .idle recA).state ≠ .fatal) :=
  ⟨⟨inv_done, rfl⟩, ⟨inv_fatal, rfl⟩, inv_idle, by decide, by decide⟩

theorem witness_AbsentBytesStopByName :
    (let s := scanOf .seekingSync [1, 2, 3]
     let t : State := { s with stream := [(0, 1)] }
     t.cursor.toNat ≤ 1 ∧ 1 < t.len ∧ t.stream.read 1 = none ∧ ∀ a, a < 1 → t.stream.read a ≠ some 0xA5) ∧
    (let s : State := { scanOf .readHeader recA with stream := put (recA.take 11) }
     11 < s.len ∧ s.stream.read 11 = none ∧ 11 < s.cursor.toNat + 12) ∧
    (let s : State := { inHand .readPayload with stream := put (recA.take 13) }
     s.cursor.toNat ≤ 13 ∧ 13 < s.len ∧ s.stream.read 13 = none ∧ 13 < s.cursor.toNat + s.h.dataSize.toNat ∧
     s.h.dataSize.toNat ≤ s.len - s.cursor.toNat ∧ s.pbuf.length < s.h.dataSize.toNat) ∧
    (let s : State := { scanOf .resync (recA.take 6) with stream := Memory.write (put [0xA5, 0x0A]) 3 0x10 }
     2 < s.len ∧ s.stream.read 2 = none ∧ s.Plausible 0 ∧
     (∀ a, a < 2 → s.cursor.toNat ≤ a → s.Plausible a → 2 ≤ a + 3) ∧ s.cursor.toNat < 2 ∧
     (0x11 : Byte) ≠ s.lastFamily) := by decide

/-- A scan that begins, the host's next access being `pass` with a register read after it (R52, log entry 2). -/
def passing : State := { scanOf .seekingSync recA with host := [.pass, .readReg 0x04] }

theorem passing_inv : passing.Inv := inv_start.withHost _ _

theorem witness_TransitionsAreTheTable :
    ((scanOf .seekingSync recA).BlockNext ∧ ∃ t, step (scanOf .seekingSync recA) = .next t) ∧
    (passing.BlockNext ∧ ∃ t, step passing = .next t) := ⟨⟨.inl rfl, _, rfl⟩, .inr ⟨_, rfl⟩, _, rfl⟩

theorem witness_BlockNeverWritesItsInputs :
    Instr.start ≠ .softReset ∧ ∃ t, exec .start (scanOf .idle recA) = .next t := ⟨by decide, _, rfl⟩

theorem witness_CursorNeverMovesBack :
    ((scanOf .seekingSync recA).Inv ∧ (scanOf .seekingSync recA).busy = true ∧ (scanOf .seekingSync recA).BlockNext ∧
      ∃ t, step (scanOf .seekingSync recA) = .next t) ∧
    (passing.Inv ∧ passing.busy = true ∧ passing.BlockNext ∧ ∃ t, step passing = .next t) :=
  ⟨⟨inv_start, rfl, .inl rfl, _, rfl⟩, passing_inv, rfl, .inr ⟨_, rfl⟩, _, rfl⟩

theorem witness_StatisticsAreMonotonic :
    let s : State := { inHand .validateHeader with h := Header.h10 0x15 0x10 4 0xBB90 0 }
    let p : State := { s with host := [.pass, .readReg 0x28] }
    (s.BlockNext ∧ ends (step s) (fun t => t.checksumFailures != s.checksumFailures) = true) ∧
    (p.BlockNext ∧ ends (step p) (fun t => t.checksumFailures != p.checksumFailures) = true) :=
  ⟨⟨.inl rfl, by decide⟩, .inr ⟨_, rfl⟩, by decide⟩

theorem witness_OnlyEmitAppends :
    let s : State := { inHand .validateHeader with count := 1 }
    let p : State := { s with host := [.pass, .readReg 0x30] }
    (s.BlockNext ∧ s.state ≠ .emit ∧ 0 < 16 * s.count.toNat ∧ ends (step s) (fun _ => true) = true) ∧
    (p.BlockNext ∧ ends (step p) (fun _ => true) = true) :=
  ⟨⟨.inl rfl, by decide⟩, .inr ⟨_, rfl⟩, by decide⟩

theorem witness_IgnoredChecksumsNeverFail :
    let on := fun (s : State) => { s with cfg := { s.cfg with ignoreChecksums := true } }
    let s := on (inHand .validateHeader)
    let t : State := { on (payloadIn .validatePayload [1, 2, 0xFC, 4]) with host := [.pass, .readReg 0x2C] }
    (s.BlockNext ∧ s.cfg.ignoreChecksums = true ∧ s.state = .validateHeader ∧ ends (step s) (fun _ => true) = true) ∧
    (t.BlockNext ∧ t.cfg.ignoreChecksums = true ∧ t.state = .validatePayload ∧ ends (step t) (fun _ => true) = true) :=
  ⟨⟨.inl rfl, by decide⟩, .inr ⟨_, rfl⟩, by decide⟩

theorem witness_UnusedArgumentsMakeNoDifference : Instr.emit ≠ .softReset := by decide

theorem witness_ResetMeetsTheInvariant : Config.Params.spec.Admissible ∧
    Config.Params.Admissible { Config.Params.spec with indexCap0 := 1 } := by decide

theorem witness_StepKeepsInv :
    (scanOf .seekingSync recA).Inv ∧ ∃ t, step (scanOf .seekingSync recA) = .next t := ⟨inv_start, _, rfl⟩

theorem witness_ScanKeepsIndexInOrder :
    ((scanOf .seekingSync recA).Inv ∧ (scanOf .seekingSync recA).busy = true ∧ (scanOf .seekingSync recA).BlockNext ∧
      ∃ t, step (scanOf .seekingSync recA) = .next t) ∧
    (passing.Inv ∧ passing.busy = true ∧ passing.BlockNext ∧ ∃ t, step passing = .next t) :=
  ⟨⟨inv_start, rfl, .inl rfl, _, rfl⟩, passing_inv, rfl, .inr ⟨_, rfl⟩, _, rfl⟩

theorem witness_BlockStepNeverStops :
    ((scanOf .seekingSync recA).Inv ∧ (scanOf .seekingSync recA).StreamLoaded ∧ (scanOf .seekingSync recA).BlockNext) ∧
    (passing.Inv ∧ passing.StreamLoaded ∧ passing.BlockNext) :=
  ⟨⟨inv_start, by decide, .inl rfl⟩, passing_inv, by decide, .inr ⟨_, rfl⟩⟩

theorem witness_RunningScanTerminates :
    (scanOf .seekingSync recA).Inv ∧ (scanOf .seekingSync recA).StreamLoaded ∧ (scanOf .seekingSync recA).host = [] ∧
    (scanOf .seekingSync recA).busy = true := ⟨inv_start, by decide, rfl, rfl⟩

theorem witness_ScanTerminatesWithinBound :
    (scanOf .idle recA).Inv ∧ (scanOf .idle recA).StreamLoaded ∧ (scanOf .idle recA).host = [] ∧
    (scanOf .idle recA).busy = false ∧ (scanOf .idle recA).cfg.streamPresent = true :=
  ⟨inv_idle, by decide, rfl, rfl, rfl⟩

/-- Record A as a record. -/
def asRecord : Record := { wide := false, id := 0x15, family := 0x10, payload := [1, 2, 3, 4] }

/-- R70: its bytes are those of the spec's table. -/
theorem test_record_bytes : asRecord.bytes = recA ∧
    Record.bytes { wide := true, id := 0x16, family := 0x10, payload := [0xAA, 0xBB, 0xCC] } = recB := by decide

theorem witness_WellFormedRecordIsIndexed :
    let s := scanOf .readHeader recA
    asRecord.Fits ∧ s.host = [] ∧ s.state = .readHeader ∧ s.StreamLoaded ∧ s.Holds s.cursor.toNat asRecord.bytes ∧
    s.cursor.toNat + asRecord.bytes.length ≤ s.len ∧ s.count.toNat < s.params.indexMax.toNat := by decide

theorem witness_CorruptedPayloadIsDropped :
    let s := scanOf .readHeader (recA.take 12 ++ [0xFC, 4])
    asRecord.Fits ∧ s.host = [] ∧ s.state = .readHeader ∧ s.StreamLoaded ∧ s.cfg.ignoreChecksums = false ∧
    asRecord.payload = [1, 2] ++ 3 :: [4] ∧ (3 : Byte) ≠ 0xFC ∧
    s.Holds s.cursor.toNat (asRecord.covered ++ bytes16 (cksum asRecord.covered) ++ ([1, 2] ++ 0xFC :: [4])) ∧
    s.cursor.toNat + asRecord.bytes.length ≤ s.len ∧ s.checksumFailures.toNat < 100 := by decide

theorem witness_WellFormedStreamRoundTrip :
    let s := scanOf .idle recA
    s.busy = false ∧ s.host = [] ∧ s.cfg.streamPresent = true ∧ [asRecord] ≠ [] ∧ (∀ r ∈ [asRecord], r.Fits) ∧
    s.StreamLoaded ∧ s.len = ([asRecord].flatMap Record.bytes).length ∧
    s.Holds 0 ([asRecord].flatMap Record.bytes) ∧ [asRecord].length ≤ s.params.indexMax.toNat ∧
    s.cfg.toArg = 0 := by decide

end Sys2Proof.Tests
end

section
/-! PROOFS. The register map: which offset names which register, the fields of STATUS, what each register reads, what a
write to it changes (spec/10_state.md R22), and the step that takes a host's register access (spec/20_memory.md R52). -/

namespace Sys2Proof.Machine

/-! ## Offsets -/

/-- The byte offset at which the map lists a register (R22). -/
def Reg.offset : Reg → Nat
  | .ctrl => 0x00
  | .status => 0x04
  | .cfg => 0x08
  | .debugLevel => 0x0C
  | .fromArg => 0x10
  | .toArg => 0x14
  | .byArg => 0x18
  | .streamLenLo => 0x20
  | .streamLenHi => 0x24
  | .cksumFailures => 0x28
  | .cksumCalc => 0x2C
  | .countLo => 0x30
  | .countHi => 0x34
  | .cursorLo => 0x38
  | .cursorHi => 0x3C
  | .errOffsetLo => 0x40
  | .errOffsetHi => 0x44
  | .lastFamily => 0x48
  | .pbufCap => 0x4C
  | .idxCapLo => 0x50
  | .idxCapHi => 0x54
  | .hdrStartLo => 0x58
  | .hdrStartHi => 0x5C
  | .hdr0 => 0x60
  | .hdr1 => 0x64
  | .hdr2 => 0x68
  | .dataSize => 0x6C
  | .payloadStartLo => 0x70
  | .payloadStartHi => 0x74

/-- The map lists a register at its own offset and nowhere else. -/
theorem regAt_eq_some {o : Nat} {r : Reg} : regAt o = some r ↔ o = r.offset := by
  constructor
  · unfold regAt
    split <;> intro h <;> cases h <;> rfl
  · rintro rfl
    cases r <;> rfl

theorem Reg.offset_inj {r q : Reg} : r.offset = q.offset ↔ r = q := by
  rw [← regAt_eq_some, regAt_eq_some.2 rfl, Option.some.injEq]

theorem Reg.offset_bounds (r : Reg) : r.offset < 0x78 ∧ r.offset % 4 = 0 := by cases r <;> decide

theorem regAt_eq_none {o : Nat} (h : 0x78 ≤ o ∨ o % 4 ≠ 0) : regAt o = none := by
  refine Option.eq_none_iff_forall_ne_some.2 fun r hr => ?_
  have ho := regAt_eq_some.1 hr
  have hb := r.offset_bounds
  omega

theorem busRead_offset (s : State) (r : Reg) : s.busRead r.offset = s.readReg r := by
  rw [State.busRead, regAt_eq_some.2 rfl]

theorem busRead_eq_zero {o : Nat} (h : 0x78 ≤ o ∨ o % 4 ≠ 0) (s : State) : s.busRead o = 0 := by
  rw [State.busRead, regAt_eq_none h]

/-! ## The fields of STATUS -/

theorem bitAt_eq (b : Bool) (k : Nat) : bitAt b k = b.toNat * 2 ^ k := by
  cases b <;> simp [bitAt]

/-- A bit of a word, from the word as a number. -/
theorem getLsbD_of_toNat {v : U32} {k : Nat} {b : Bool} (h : v.toNat / 2 ^ k % 2 = b.toNat) : v.getLsbD k = b := by
  rw [BitVec.getLsbD, Nat.testBit_eq_decide_div_mod_eq, h]
  cases b <;> rfl

/-! ## What the registers read -/

/-- The header window's bytes, read one at a time from its three registers (R22, R47). -/
theorem busReadByte_window (s : State) {k : Nat} (hk : k < 12) :
    some (s.busReadByte (0x60 + k)) = s.hbuf.toList[k]? := by
  obtain ⟨p0, p1, p2, p3⟩ := byteOf_le32 s.hbuf.b0 s.hbuf.b1 s.hbuf.b2 s.hbuf.b3
  obtain ⟨q0, q1, q2, q3⟩ := byteOf_le32 s.hbuf.b4 s.hbuf.b5 s.hbuf.b6 s.hbuf.b7
  obtain ⟨r0, r1, r2, r3⟩ := byteOf_le32 s.hbuf.b8 s.hbuf.b9 s.hbuf.b10 s.hbuf.b11
  interval_cases k
  · exact congrArg some p0
  · exact congrArg some p1
  · exact congrArg some p2
  · exact congrArg some p3
  · exact congrArg some q0
  · exact congrArg some q1
  · exact congrArg some q2
  · exact congrArg some q3
  · exact congrArg some r0
  · exact congrArg some r1
  · exact congrArg some r2
  · exact congrArg some r3

theorem cfgWord_toNat (c : Cfg) :
    c.word.toNat = (if c.ignoreChecksums then 1 else 0) + (if c.streamPresent then 2 else 0) := by
  rw [Cfg.word, BitVec.toNat_ofNat, bitAt, bitAt]
  split_ifs <;> rfl

theorem readReg_cksumCalc_toNat (s : State) :
    (s.readReg .cksumCalc).toNat = s.calcHdrCksum.toNat + 65536 * s.calcPayCksum.toNat := by
  rw [State.readReg, BitVec.toNat_ofNat]
  omega

theorem readReg_lastFamily_toNat (s : State) : (s.readReg .lastFamily).toNat = s.lastFamily.toNat := by
  rw [State.readReg, BitVec.toNat_ofNat]
  omega

/-! ## What a register write changes -/

@[simp] theorem lo32_lohi (lo hi : U32) : lo32 (lohi lo hi) = lo := by
  apply BitVec.eq_of_toNat_eq
  simp only [lo32, lohi, BitVec.toNat_ofNat]
  omega

@[simp] theorem hi32_lohi (lo hi : U32) : hi32 (lohi lo hi) = hi := by
  apply BitVec.eq_of_toNat_eq
  simp only [hi32, lohi, BitVec.toNat_ofNat]
  omega

/-- The RW-idle registers (R22). -/
def Reg.rwIdle : List Reg := [.cfg, .debugLevel, .fromArg, .toArg, .byArg, .streamLenLo, .streamLenHi]

/-- The other registers have no writable bit (R22). -/
theorem Cfg.write_of_not_mem {r : Reg} (h : r ∉ Reg.rwIdle) (c : Cfg) (v : U32) : c.write r v = c := by
  cases r
  case cfg | debugLevel | fromArg | toArg | byArg | streamLenLo | streamLenHi => exact absurd (by decide) h
  all_goals rfl

/-- `CFG` keeps the two bits it has (R22). -/
theorem cfgWord_write (c : Cfg) (v : U32) : (c.write .cfg v).word = v &&& 3 := by
  have h0 : (v &&& 3).toNat = v.toNat % 4 := by rw [BitVec.toNat_and]; exact Nat.and_two_pow_sub_one_eq_mod _ 2
  have h1 : (c.write .cfg v).word.toNat = v.toNat % 2 + v.toNat / 2 % 2 * 2 := by
    rw [cfgWord_toNat]
    simp only [Cfg.write, BitVec.getLsbD, Nat.testBit_eq_decide_div_mod_eq, decide_eq_true_eq]
    split_ifs <;> omega
  apply BitVec.eq_of_toNat_eq
  omega

/-- A register just written reads back (R22). -/
theorem readReg_write_same {r : Reg} (h : r ∈ Reg.rwIdle) (s : State) (v : U32) :
    State.readReg { s with cfg := s.cfg.write r v } r = if r = .cfg then v &&& 3 else v := by
  cases r
  case cfg => exact cfgWord_write s.cfg v
  case streamLenLo => exact lo32_lohi _ _
  case streamLenHi => exact hi32_lohi _ _
  case debugLevel | fromArg | toArg | byArg => rfl
  all_goals exact absurd h (by decide)

/-- A register write leaves what every other register reads (R22). -/
theorem readReg_write_other {r q : Reg} (h : q ≠ r) (s : State) (v : U32) :
    State.readReg { s with cfg := s.cfg.write r v } q = s.readReg q := by
  cases q
  case cfg | debugLevel | fromArg | toArg | byArg => cases r <;> first | contradiction | rfl
  case streamLenLo =>
    cases r
    case streamLenLo => contradiction
    case streamLenHi => exact lo32_lohi _ _
    all_goals rfl
  case streamLenHi =>
    cases r
    case streamLenHi => contradiction
    case streamLenLo => exact hi32_lohi _ _
    all_goals rfl
  all_goals rfl

/-! ## The step that takes a register access -/

theorem step_readReg {s : State} {o : Nat} {rest : List HostAccess} (h : s.host = .readReg o :: rest) :
    step s = .next { s with host := rest, hostData := s.busRead o } := by
  simp only [step, State.fetch, h]

theorem step_readRegByte {s : State} {o : Nat} {rest : List HostAccess} (h : s.host = .readRegByte o :: rest) :
    step s = .next { s with host := rest, hostData := BitVec.ofNat 32 (s.busReadByte o).toNat } := by
  simp only [step, State.fetch, h]

/-- A byte of the register space as a number: of the register at the next multiple of 4 below (R47). -/
theorem busReadByte_toNat (s : State) (o : Nat) :
    (s.busReadByte o).toNat = (s.busRead (o - o % 4)).toNat / 256 ^ (o % 4) % 256 := by
  rw [State.busReadByte, byteOf, BitVec.toNat_ofNat, show o / 4 * 4 = o - o % 4 by omega]

/-- A write that commands nothing is a register write (R22). -/
theorem step_writeReg {s : State} {o : Nat} {v : U32} {rest : List HostAccess} (h : s.host = .writeReg o v :: rest)
    (hc : commandOf o v = none) : step s = .next (State.busWrite { s with host := rest } o v) := by
  simp only [step, State.fetch, h, hc]

/-- A write that gives a command runs it (R22, R69). -/
theorem step_command {s : State} {o : Nat} {v : U32} {i : Instr} {rest : List HostAccess}
    (h : s.host = .writeReg o v :: rest) (hc : commandOf o v = some i) : step s = exec i { s with host := rest } := by
  simp only [step, State.fetch, h, hc]

theorem commandOf_zero (v : U32) : commandOf 0 v = (decodeCtrl v).toOption := rfl

/-- Only `CTRL`, at offset 0, takes commands (R22). -/
theorem commandOf_of_ne_zero {o : Nat} (h : o ≠ 0) (v : U32) : commandOf o v = none :=
  if_neg fun hr => h (regAt_eq_some.1 hr)

/-- A write to a register while the block is not busy (R22, R181). -/
theorem busWrite_idle {s : State} (h : s.busy = false) (r : Reg) (v : U32) :
    s.busWrite r.offset v = { s with cfg := s.cfg.write r v } := by
  simp only [State.busWrite, regAt_eq_some.2 rfl, h, Bool.false_eq_true, if_false]

/-- A write while busy has no effect (R181). -/
theorem busWrite_busy {s : State} (h : s.busy = true) (o : Nat) (v : U32) : s.busWrite o v = s := by
  rcases busWrite_eq s o v with he | ⟨hb, -⟩
  · exact he
  · exact absurd h (by simp [hb])

/-- A write at an offset of no RW-idle register has no effect (R22; log entry 17). -/
theorem busWrite_of_not_mem {o : Nat} (h : ∀ r ∈ Reg.rwIdle, o ≠ r.offset) (s : State) (v : U32) :
    s.busWrite o v = s := by
  rw [State.busWrite]
  split
  next r hr =>
    rw [Cfg.write_of_not_mem fun hm => h r hm (regAt_eq_some.1 hr)]
    split <;> rfl
  next => rfl

/-! ## The statements -/

/-- Settles O2: the write's two command bits are what `decodeCtrl` looks at, bit 1 first. -/
theorem controlWriteRunsCommand : Obligations.ControlWriteRunsCommand := by
  intro s v rest h
  have hc := commandOf_zero v
  refine ⟨fun h1 => step_command h ?_, fun h1 h0 => step_command h ?_, fun h1 h0 => ?_⟩
  · rw [hc, decodeCtrl, h1]; rfl
  · rw [hc, decodeCtrl, h1, h0]; rfl
  · rw [step_writeReg h (by rw [hc, decodeCtrl, h1, h0]; rfl)]
    exact congrArg _ (busWrite_of_not_mem (by decide) _ v)

/-- Settles O33: as a number STATUS is a sum of fields that do not overlap (`status_toNat`), so each of its bits is the
field's. -/
theorem statusFields : Obligations.StatusFields := by
  intro s
  have hv : (s.busRead 0x04).toNat = _ := status_toNat s
  have hcode : (stateCode s.state).toNat < 16 := (stateCode s.state).isLt
  have hbusy := s.busy.toNat_le
  have hdone := s.doneOut.toNat_le
  have hfatal := s.fatalOut.toNat_le
  have heof := s.earlyEof.toNat_le
  have hused := s.used12.toNat_le
  simp only [bitAt_eq] at hv
  refine ⟨?_, ?_, ?_, ?_, ?_, ?_, ?_, ?_, ?_, ?_⟩
  · omega
  · rw [← busy_eq]; exact getLsbD_of_toNat (by omega)
  · rw [← doneOut_eq]; exact getLsbD_of_toNat (by omega)
  · rw [← fatalOut_eq]; exact getLsbD_of_toNat (by omega)
  · exact getLsbD_of_toNat (by rw [Bool.toNat_false]; omega)
  · exact getLsbD_of_toNat (by omega)
  · exact getLsbD_of_toNat (by omega)
  · exact getLsbD_of_toNat (by rw [Bool.toNat_false]; omega)
  · exact getLsbD_of_toNat (by rw [Bool.toNat_false]; omega)
  · omega

/-- Settles O34: each register of the map by what it reads, the two halves of a 64-bit quantity by `lo32_hi32`, and the
two steps that take a read. -/
theorem registerReadsShowTheState : Obligations.RegisterReadsShowTheState := by
  refine ⟨fun s => ?_, fun s o rest => ⟨step_readReg, fun h => ?_⟩⟩
  · exact ⟨rfl, cfgWord_toNat _, rfl, rfl, rfl, rfl, lo32_hi32 _, rfl, readReg_cksumCalc_toNat s, lo32_hi32 _,
      lo32_hi32 _, lo32_hi32 _, readReg_lastFamily_toNat s, rfl, lo32_hi32 _, lo32_hi32 _,
      fun k => busReadByte_window s, rfl, lo32_hi32 _, rfl, fun o ho => busRead_eq_zero ho s⟩
  · rw [step_readRegByte h, busReadByte_toNat]

/-- The offsets of the RW-idle registers (R22). -/
theorem mem_rwIdle_offsets {o : Nat} :
    o ∈ [0x08, 0x0C, 0x10, 0x14, 0x18, 0x20, 0x24] ↔ ∃ r ∈ Reg.rwIdle, o = r.offset := by
  rw [show [0x08, 0x0C, 0x10, 0x14, 0x18, 0x20, 0x24] = Reg.rwIdle.map Reg.offset from rfl, List.mem_map]
  simp only [eq_comm]

/-- Settles O35: while busy, and at other offsets, a write answers the state it is given; while not busy it changes the
configuration, which the register's own read shows and no other register's does. -/
theorem registerWritesOnlyWhenIdle : Obligations.RegisterWritesOnlyWhenIdle := by
  intro s o v rest h ho
  have hstep := step_writeReg h (commandOf_of_ne_zero ho v)
  refine ⟨?_, fun hb hm => ?_⟩
  · rintro (hb | hm)
    · exact hstep.trans (congrArg _ (busWrite_busy (s := { s with host := rest }) hb o v))
    · have hnone : ∀ r ∈ Reg.rwIdle, o ≠ r.offset := fun r hr he => hm (mem_rwIdle_offsets.2 ⟨r, hr, he⟩)
      exact hstep.trans (congrArg _ (busWrite_of_not_mem hnone _ v))
  · obtain ⟨r, hr, rfl⟩ := mem_rwIdle_offsets.1 hm
    have hwrite := busWrite_idle (s := { s with host := rest }) hb r v
    refine ⟨_, hstep.trans (congrArg _ hwrite), rfl, ?_, fun o' hm' hne => ?_⟩
    · rw [busRead_offset]
      exact (readReg_write_same hr { s with host := rest } v).trans (if_congr (Reg.offset_inj (q := .cfg)).symm rfl rfl)
    · obtain ⟨q, -, rfl⟩ := mem_rwIdle_offsets.1 hm'
      rw [busRead_offset, busRead_offset]
      exact readReg_write_other (mt Reg.offset_inj.2 hne) { s with host := rest } v

end Sys2Proof.Machine
end

section
/-! PROOFS. The index as the host reads it at the end of a scan: an entry wherever the 16 bytes have a value
(spec/44_buffers.md R43, R44), and one triple for each entry, in order (R144). -/

namespace Sys2Proof.Machine

/-- Any 16 bytes are those of an entry (R44). -/
theorem entryOf_of_length : ∀ {bs : List Byte}, bs.length = 16 → ∃ e, entryOf bs = some e
  | [_, _, _, _, _, _, _, _, _, _, _, _, _, _, _, _], _ => ⟨_, rfl⟩

/-- Each entry below `count` has a value (R43, R144). -/
theorem State.Inv.entryAt {s : State} (h : s.Inv) {i : Nat} (hi : i < s.count.toNat) : ∃ e, s.entryAt i = some e := by
  obtain ⟨bs, hbs⟩ := Option.isSome_iff_exists.1 <|
    Memory.readSpan_isSome (m := s.idx) (a := 16 * i) (n := 16) fun j hj => (h.idxCells _).2 (by omega)
  obtain ⟨e, he⟩ := entryOf_of_length (Memory.readSpan_length hbs)
  exact ⟨e, by rw [State.entryAt, hbs]; exact he⟩

/-- The triples of entries that all have a value: one for each, in order (R144). -/
theorem entries_spec {s : State} {n : Nat} (h : ∀ i, i < n → ∃ e, s.entryAt i = some e) :
    (s.entries n).length = n ∧
    ∀ i e, i < n → s.entryAt i = some e → (s.entries n)[i]? = some (e.offset, e.length, e.id) := by
  induction n with
  | zero => exact ⟨rfl, fun i e hi => absurd hi (Nat.not_lt_zero i)⟩
  | succ n ih =>
    obtain ⟨hlen, hget⟩ := ih fun i hi => h i (by omega)
    obtain ⟨e, he⟩ := h n (by omega)
    have hsucc : s.entries (n + 1) = s.entries n ++ [(e.offset, e.length, e.id)] := by rw [State.entries, he]; rfl
    rw [hsucc]
    refine ⟨by rw [List.length_append, hlen]; rfl, fun i f hi hf => ?_⟩
    rcases Nat.lt_succ_iff_lt_or_eq.1 hi with hlt | rfl
    · rw [List.getElem?_append_left (by omega)]
      exact hget i f hlt hf
    · obtain rfl : e = f := Option.some.inj (he.symm.trans hf)
      rw [List.getElem?_append_right (by omega), hlen, Nat.sub_self]
      rfl

theorem result_done {s : State} (h : s.state = .done) :
    s.result = some (.ok (s.entries s.count.toNat) s.checksumFailures s.earlyEof s.used12) := by
  simp only [State.result, h]

theorem result_fatal {s : State} (h : s.state = .fatal) : s.result = some (.error s.errCode s.errOffset) := by
  simp only [State.result, h]

theorem result_of_not_terminal {s : State} (hd : s.state ≠ .done) (hf : s.state ≠ .fatal) : s.result = none := by
  rw [State.result]
  split
  · contradiction
  · contradiction
  all_goals rfl

/-- Settles O37: the invariant gives every entry below `count` a value, so the result at DONE lists them all. -/
theorem resultOfAScan : Obligations.ResultOfAScan := by
  intro s hinv
  refine ⟨fun hd => ?_, result_fatal, result_of_not_terminal⟩
  obtain ⟨hlen, hget⟩ := entries_spec fun i => hinv.entryAt
  refine ⟨_, result_done hd, hlen, fun i hi => ?_⟩
  obtain ⟨e, he⟩ := hinv.entryAt hi
  exact ⟨e, he, hget i e hi he⟩

end Sys2Proof.Machine
end

section
/-! PROOFS. What one step of the block can do, as an inductive relation: every state it can answer, with what led to it
(spec/43_scanner.md R113), and what each move does to the cursor, the statistics and the index. -/

namespace Sys2Proof.Machine

/-- The moves of the block: each state that the operation of the state register can answer at `s` (R110, R113). -/
inductive State.BlockMove (s : State) : State → Prop
  | waits (hs : s.state = .idle ∨ s.Terminal) : BlockMove s s
  | syncFound (p : Nat) (hs : s.state = .seekingSync) (hf : findSync s.stream s.rem s.cursor.toNat = .found p) :
      BlockMove s { s with cursor := u64 p, state := .readHeader }
  | noSync (hs : s.state = .seekingSync) (hf : findSync s.stream s.rem s.cursor.toNat = .endOfStream) :
      BlockMove s (State.raiseFatal { s with cursor := s.cfg.streamLen } .noSync s.cfg.streamLen)
  | badSync (bs : List Byte) (hs : s.state = .readHeader) (hb : s.windowBytes = some bs)
      (hp : parseHeader bs = .error .badSync) : BlockMove s ((s.loadWindow bs).raiseFatal .badSync s.cursor)
  | badSize (bs : List Byte) (hs : s.state = .readHeader) (hb : s.windowBytes = some bs)
      (hp : parseHeader bs = .error .badSize) : BlockMove s ((s.loadWindow bs).raiseFatal .hdrSize s.cursor)
  | headerShort (bs : List Byte) (hs : s.state = .readHeader) (hb : s.windowBytes = some bs)
      (hp : parseHeader bs = .error .short) : BlockMove s ((s.loadWindow bs).endEarly .shortRead s.cursor)
  | headerRead (bs : List Byte) (h : Header) (hs : s.state = .readHeader) (hb : s.windowBytes = some bs)
      (hp : parseHeader bs = .ok h) : BlockMove s ((s.loadWindow bs).acceptHeader h)
  | headerPassed (hs : s.state = .validateHeader) (hm : s.mismatch (cksum s.headerSpan) s.h.headerChecksum = false) :
      BlockMove s s.headerChecked
  | headerFailed (hs : s.state = .validateHeader) (hm : s.mismatch (cksum s.headerSpan) s.h.headerChecksum = true) :
      BlockMove s { s.headerChecked with
        checksumFailures := satInc32 s.checksumFailures, log := s.log ++ [(.hdrCksum, s.hdrStart)] }
  | payloadShort (hs : s.state = .readPayload) (hr : s.rem < s.h.dataSize.toNat) :
      BlockMove s (s.growPbuf.endEarly .shortRead s.hdrStart)
  | payloadRead (bs : List Byte) (hs : s.state = .readPayload) (hr : ¬ s.rem < s.h.dataSize.toNat)
      (hb : s.payloadBytes = some bs) : BlockMove s (s.payloadRead bs)
  | payloadPassed (span : List Byte) (hs : s.state = .validatePayload) (hp : s.payloadSpan = some span)
      (hm : s.mismatch (cksum span) s.h.dataChecksum = false) :
      BlockMove s { s.payloadChecked (cksum span) with state := .emit }
  | payloadFailed (span : List Byte) (hs : s.state = .validatePayload) (hp : s.payloadSpan = some span)
      (hm : s.mismatch (cksum span) s.h.dataChecksum = true) (hc : ¬ 100 < (satInc32 s.checksumFailures).toNat) :
      BlockMove s { s.payloadFailed (cksum span) with state := .resync }
  | overCap (span : List Byte) (hs : s.state = .validatePayload) (hp : s.payloadSpan = some span)
      (hm : s.mismatch (cksum span) s.h.dataChecksum = true) (hc : 100 < (satInc32 s.checksumFailures).toNat) :
      BlockMove s ((s.payloadFailed (cksum span)).raiseFatal .cksumCap s.hdrStart)
  | indexFull (hs : s.state = .emit) (hc : s.count = s.params.indexMax) :
      BlockMove s (s.raiseFatal .indexFull s.hdrStart)
  | indexed (hs : s.state = .emit) (hc : s.count.toNat < s.params.indexMax.toNat) :
      BlockMove s (s.classified s.h.id).stopOrGoOn
  | candidateFound (p : Nat) (hs : s.state = .resync)
      (hf : findCandidate s.stream s.lastFamily (s.len - s.cursor.toNat) s.cursor.toNat = .found p) :
      BlockMove s { s with cursor := u64 p, state := .readHeader }
  | noCandidate (hs : s.state = .resync)
      (hf : findCandidate s.stream s.lastFamily (s.len - s.cursor.toNat) s.cursor.toNat = .endOfStream) :
      BlockMove s (s.endEarly .resyncEof s.cfg.streamLen)

/-- The operation of the state register makes one of the moves. -/
theorem operation_blockMove {s t : State} (h : exec (operationOf s.state) s = .next t) : s.BlockMove t := by
  have hop := operation_next h
  cases hs : s.state <;> simp only [hs] at hop
  case idle => subst hop; exact .waits (.inl hs)
  case done => subst hop; exact .waits (.inr (.inl hs))
  case fatal => subst hop; exact .waits (.inr (.inr hs))
  case seekingSync =>
    obtain ⟨p, hf, rfl⟩ | ⟨hf, rfl⟩ := execSeekingSync_next hop
    · exact .syncFound p hs hf
    · exact .noSync hs hf
  case readHeader =>
    obtain ⟨bs, hb, ⟨hp, rfl⟩ | ⟨hp, rfl⟩ | ⟨hp, rfl⟩ | ⟨hd, hp, rfl⟩⟩ := execReadHeader_next hop
    · exact .badSync bs hs hb hp
    · exact .badSize bs hs hb hp
    · exact .headerShort bs hs hb hp
    · exact .headerRead bs hd hs hb hp
  case validateHeader =>
    rw [execValidateHeader_eq] at hop
    cases hm : s.mismatch (cksum s.headerSpan) s.h.headerChecksum <;> rw [hm] at hop <;> cases hop
    · exact .headerPassed hs hm
    · exact .headerFailed hs hm
  case readPayload =>
    obtain ⟨hr, rfl⟩ | ⟨hr, bs, hb, rfl⟩ := execReadPayload_next hop
    · exact .payloadShort hs hr
    · exact .payloadRead bs hs hr hb
  case validatePayload =>
    obtain ⟨span, hp, ⟨hm, hc, rfl⟩ | ⟨hm, hc, rfl⟩ | ⟨hm, rfl⟩⟩ := execValidatePayload_next hop
    · exact .overCap span hs hp hm hc
    · exact .payloadFailed span hs hp hm hc
    · exact .payloadPassed span hs hp hm
  case emit =>
    obtain ⟨hc, rfl⟩ | ⟨hc, rfl⟩ := execEmit_next hop
    · exact .indexFull hs hc
    · exact .indexed hs hc
  case resync =>
    obtain ⟨p, hf, rfl⟩ | ⟨hf, rfl⟩ := resyncFrom_next hop
    · exact .candidateFound p hs hf
    · exact .noCandidate hs hf

/-- A block step makes one of the moves at the same state but for the host's list, whatever is pending there. -/
theorem step_blockMove {s t : State} (hb : s.BlockNext) (h : step s = .next t) :
    ∃ rest, State.BlockMove { s with host := rest } t := by
  obtain ⟨rest, he⟩ := step_blockNext hb
  exact ⟨rest, operation_blockMove (he ▸ h)⟩

namespace State.BlockMove

variable {s t : State}

/-! ## The statistics -/

/-- Only a mismatch in a validation counts a failure (R16). -/
theorem checksumFailures_cases (h : s.BlockMove t) : t.checksumFailures = s.checksumFailures ∨
    (t.checksumFailures = satInc32 s.checksumFailures ∧ (s.state = .validateHeader ∨ s.state = .validatePayload)) := by
  cases h
  case headerFailed hs _ => exact .inr ⟨rfl, .inl hs⟩
  case payloadFailed hs _ _ _ => exact .inr ⟨rfl, .inr hs⟩
  case overCap hs _ _ _ => exact .inr ⟨rfl, .inr hs⟩
  case indexed => exact .inl (by rw [emitted_frame])
  all_goals exact .inl rfl

/-- Only READ_HEADER of a 12-byte header sets `used_12_byte_header` (R94). -/
theorem used12_cases (h : s.BlockMove t) : t.used12 = s.used12 ∨
    (t.used12 = true ∧ s.state = .readHeader ∧ t.h.headerSize = Config.hs12) := by
  cases h
  case headerRead hd hs _ _ =>
    by_cases hz : hd.headerSize = Config.hs12
    · exact .inr ⟨by simp [hz], hs, hz⟩
    · exact .inl (by simp [hz])
  case indexed => exact .inl (by rw [emitted_frame])
  all_goals exact .inl rfl

/-- Only the early-EOF exit sets `early_eof` (R156). -/
theorem earlyEof_cases (h : s.BlockMove t) : t.earlyEof = s.earlyEof ∨
    (t.earlyEof = true ∧ t.state = .done ∧ t.cursor = s.cfg.streamLen) := by
  cases h
  case headerShort | payloadShort | noCandidate => exact .inr ⟨rfl, rfl, rfl⟩
  case indexed => exact .inl (by rw [emitted_frame])
  all_goals exact .inl rfl

/-! ## The index -/

/-- Every move but the append of EMIT leaves the index, its count and its capacity alone (R142, R144). -/
theorem index_cases (h : s.BlockMove t) : (t.count = s.count ∧ t.idx = s.idx ∧ t.idxCap = s.idxCap) ∨
    (s.state = .emit ∧ t.idx = (s.idxAppend s.entryOffset s.h.dataSize s.h.id (known s.h.id)).idx) := by
  cases h
  case indexed hs _ => exact .inr ⟨hs, emitted_idx s s.h.id⟩
  all_goals exact .inl ⟨rfl, rfl, rfl⟩

/-! ## The cursor -/

/-- The header in hand stays behind the cursor, and the cursor moves on inside the stream (R12, R125 item 1). -/
theorem cursor_le (h : s.BlockMove t) (hlen : s.cursor.toNat ≤ s.len) (hhdr : s.hdrStart.toNat ≤ s.cursor.toNat) :
    s.cursor.toNat ≤ t.cursor.toNat ∧ t.cursor.toNat ≤ s.len ∧ t.hdrStart.toNat ≤ t.cursor.toNat := by
  have hL : s.len < 2 ^ 64 := s.cfg.streamLen.isLt
  have moved : ∀ {n : Nat}, s.cursor.toNat ≤ n → n ≤ s.len →
      s.cursor.toNat ≤ (u64 n).toNat ∧ (u64 n).toNat ≤ s.len ∧ s.hdrStart.toNat ≤ (u64 n).toNat := by
    intro n h1 h2
    rw [u64_toNat (by omega)]
    omega
  have hrem : s.rem = s.len - s.cursor.toNat := rfl
  cases h
  case syncFound p _ hf =>
    have := findSync_spec s.stream s.rem s.cursor.toNat
    rw [hf] at this
    exact moved this.1 (by omega)
  case candidateFound p _ hf =>
    have := findCandidate_spec s (s.len - s.cursor.toNat) s.cursor.toNat (by omega)
    rw [hf] at this
    obtain ⟨h1, ⟨h2, -⟩, -⟩ := this
    exact moved h1 (by omega)
  case noSync | noCandidate | payloadShort => exact ⟨hlen, Nat.le_refl _, hhdr.trans hlen⟩
  case headerShort => exact ⟨hlen, Nat.le_refl _, hlen⟩
  case badSync | badSize => exact ⟨Nat.le_refl _, hlen, Nat.le_refl _⟩
  case headerRead bs hd _ hb hp =>
    have h1 := windowBytes_length hb
    have h2 := parse_ok_length hp
    obtain ⟨h3, h4, -⟩ := moved (n := s.cursor.toNat + hd.headerSize.toNat) (by omega) (by omega)
    exact ⟨h3, h4, h3⟩
  case payloadRead => exact moved (by omega) (by omega)
  case indexed => rw [emitted_frame]; exact ⟨Nat.le_refl _, hlen, hhdr⟩
  all_goals exact ⟨Nat.le_refl _, hlen, hhdr⟩

end State.BlockMove

/-! ## The statements -/

/-- Settles O41: the scan's invariant gives what `State.BlockMove.cursor_le` asks of the state before the step. -/
theorem cursorNeverMovesBack : Obligations.CursorNeverMovesBack := by
  intro s t hinv hbusy hnext h
  obtain ⟨rest, hm⟩ := step_blockMove hnext h
  have hscan := hinv.scan hbusy
  exact hm.cursor_le hscan.cursorInStream hscan.headerBehindCursor

/-- Settles O42: what each move does to the counter and to each flag, the counter's saturation bounding its growth. -/
theorem statisticsAreMonotonic : Obligations.StatisticsAreMonotonic := by
  intro s t hnext h
  obtain ⟨rest, hm⟩ := step_blockMove hnext h
  have hcount : t.checksumFailures = s.checksumFailures ∨ (t.checksumFailures = satInc32 s.checksumFailures ∧
      (s.state = .validateHeader ∨ s.state = .validatePayload)) := hm.checksumFailures_cases
  have hused : t.used12 = s.used12 ∨ (t.used12 = true ∧ s.state = .readHeader ∧ t.h.headerSize = 12) := hm.used12_cases
  have heof : t.earlyEof = s.earlyEof ∨ (t.earlyEof = true ∧ t.state = .done ∧ t.cursor = s.cfg.streamLen) :=
    hm.earlyEof_cases
  have hsat : s.checksumFailures.toNat ≤ (satInc32 s.checksumFailures).toNat ∧
      (satInc32 s.checksumFailures).toNat ≤ s.checksumFailures.toNat + 1 := by
    rw [satInc32_toNat]
    omega
  refine ⟨?_, ?_, ?_, ?_, ?_, ?_, ?_⟩
  · rcases hcount with he | ⟨he, -⟩ <;> rw [he]
    exact hsat.1
  · rcases hcount with he | ⟨he, -⟩ <;> rw [he]
    · exact Nat.le_succ _
    · exact hsat.2
  · exact fun hne => (hcount.resolve_left hne).2
  · exact fun hset => heof.elim (fun he => he.trans hset) fun he => he.1
  · exact fun hset => hused.elim (fun he => he.trans hset) fun he => he.1
  · exact fun hne => (hused.resolve_left hne).2
  · exact fun hne => (heof.resolve_left hne).2

/-- Settles O43: only EMIT's append touches the index, and it writes at `16·count` and above. -/
theorem onlyEmitAppends : Obligations.OnlyEmitAppends := by
  intro s t hnext h
  obtain ⟨rest, hm⟩ := step_blockMove hnext h
  rcases hm.index_cases with hkept | ⟨hemit, happend⟩
  · exact ⟨fun _ => hkept, fun a _ => congrArg (Memory.read · a) hkept.2.1⟩
  · refine ⟨fun hne => absurd hemit hne, fun a ha => ?_⟩
    rw [happend]
    exact State.idxAppend_read { s with host := rest } _ _ _ _ (.inl ha)

end Sys2Proof.Machine
end

section
/-! PROOFS. The memories at the edge of the block: what the host's accesses to the stream space and the index answer
(spec/20_memory.md R52, spec/44_buffers.md R144), and that the block leaves its inputs alone (R40, R53, R181). -/

namespace Sys2Proof.Machine

variable {s t : State}

/-! ## The host's accesses -/

theorem step_writeStream {a : U64} {v : Byte} {rest : List HostAccess} (h : s.host = .writeStream a v :: rest) :
    step s = State.hostWriteStream { s with host := rest } a v := by
  simp only [step, State.fetch, h]

theorem step_readStream {a : U64} {rest : List HostAccess} (h : s.host = .readStream a :: rest) :
    step s = State.hostReadStream { s with host := rest } a := by
  simp only [step, State.fetch, h]

theorem step_readIdx {a : Nat} {rest : List HostAccess} (h : s.host = .readIdx a :: rest) :
    step s = State.hostReadIdx { s with host := rest } a := by
  simp only [step, State.fetch, h]

/-! While a scan runs the three are outside the contract (R52, R180, R182). -/

theorem hostWriteStream_busy (h : s.busy = true) (a : U64) (v : Byte) :
    s.hostWriteStream a v = .refused .hostAccessWhileBusy := if_pos h

theorem hostReadStream_busy (h : s.busy = true) (a : U64) :
    s.hostReadStream a = .refused .hostAccessWhileBusy := if_pos h

theorem hostReadIdx_busy (h : s.busy = true) (a : Nat) :
    s.hostReadIdx a = .refused .hostAccessWhileBusy := if_pos h

theorem hostWriteStream_idle (h : s.busy = false) (a : U64) (v : Byte) :
    s.hostWriteStream a v = .next { s with stream := s.stream.write a.toNat v } := by
  simp only [State.hostWriteStream, h, Bool.false_eq_true, if_false]

/-- A stream read gives the byte that was placed (R52). -/
theorem hostReadStream_placed (h : s.busy = false) {a : U64} {b : Byte} (hb : s.stream.read a.toNat = some b) :
    s.hostReadStream a = .next { s with hostData := BitVec.ofNat 32 b.toNat } := by
  simp only [State.hostReadStream, h, Bool.false_eq_true, if_false, hb]

/-- A stream byte that was never placed is unspecified (R23, U7). -/
theorem hostReadStream_absent (h : s.busy = false) {a : U64} (hb : s.stream.read a.toNat = none) :
    s.hostReadStream a = .refused .streamByteUnspecified := by
  simp only [State.hostReadStream, h, Bool.false_eq_true, if_false, hb]

/-- An index read below `16·count` gives the byte (R144). -/
theorem hostReadIdx_below (h : s.busy = false) {a : Nat} {b : Byte} (ha : a < 16 * s.count.toNat)
    (hb : s.idx.read a = some b) : s.hostReadIdx a = .next { s with hostData := BitVec.ofNat 32 b.toNat } := by
  simp only [State.hostReadIdx, h, Bool.false_eq_true, if_false, ha, if_true, hb]

/-- An index byte at or beyond `16·count` is unspecified (R144, U7). -/
theorem hostReadIdx_beyond (h : s.busy = false) {a : Nat} (ha : 16 * s.count.toNat ≤ a) :
    s.hostReadIdx a = .refused .indexByteUnspecified := by
  simp only [State.hostReadIdx, h, Bool.false_eq_true, if_false, Nat.not_lt.2 ha]

/-! ## The block's inputs -/

/-- What the block takes from outside is the same in both states: the parameters, the host's pending accesses, the
stream space and the configuration registers (R40, R53, R181; log entries 1 and 2). -/
structure State.SameInputs (s t : State) : Prop where
  params : t.params = s.params
  host : t.host = s.host
  stream : t.stream = s.stream
  cfg : t.cfg = s.cfg

/-- IDX_APPEND changes the index alone (R142). -/
theorem execIdxAppend_sameInputs {off : U64} {len : U32} {id : Byte} {k : Bool}
    (h : execIdxAppend off len id k s = .next t) : s.SameInputs t := by
  rw [execIdxAppend] at h
  split at h <;> cases h
  exact ⟨rfl, rfl, rfl, rfl⟩

/-- The entry of an unknown identifier adds only the warning to the append (R120). -/
theorem indexUnknown_sameInputs {id : Byte} (h : s.indexUnknown id = .next t) : s.SameInputs t := by
  rw [State.indexUnknown] at h
  split at h <;> cases h
  next happend =>
    obtain ⟨hparams, hhost, hstream, hcfg⟩ := execIdxAppend_sameInputs happend
    exact ⟨hparams, hhost, hstream, hcfg⟩

theorem readRecord_sameInputs {hd : Header} (h : s.readRecord hd = .next t) : s.SameInputs t := by
  obtain ⟨bs, -, ⟨-, rfl⟩ | ⟨-, rfl⟩⟩ := readRecord_next h <;> exact ⟨rfl, rfl, rfl, rfl⟩

theorem resyncFrom_sameInputs {c : Nat} (h : s.resyncFrom c = .next t) : s.SameInputs t := by
  obtain ⟨p, -, rfl⟩ | ⟨-, rfl⟩ := resyncFrom_next h <;> exact ⟨rfl, rfl, rfl, rfl⟩

theorem tryCandidate_sameInputs {f : Byte} (h : s.tryCandidate f = .next t) : s.SameInputs t := by
  obtain ⟨-, -, rfl⟩ | h := tryCandidate_next h
  · exact ⟨rfl, rfl, rfl, rfl⟩
  · exact resyncFrom_sameInputs h

/-- Every instruction but SOFT_RESET leaves the inputs alone (R40, R53, R181). -/
theorem exec_sameInputs {i : Instr} (hi : i ≠ .softReset) (h : exec i s = .next t) : s.SameInputs t := by
  cases i
  case rec10 | rec12 => exact readRecord_sameInputs h
  case resyncCandidate10 | resyncCandidate12 => exact tryCandidate_sameInputs h
  case id21 | id22 | id23 | id24 | id26 | id27 | id28 | id29 | id30 | id31 | id160 => exact execIdxAppend_sameInputs h
  case idUnknown => exact indexUnknown_sameInputs h
  case seekingSync =>
    obtain ⟨p, -, rfl⟩ | ⟨-, rfl⟩ := execSeekingSync_next h <;> exact ⟨rfl, rfl, rfl, rfl⟩
  case readHeader =>
    obtain ⟨bs, -, ⟨-, rfl⟩ | ⟨-, rfl⟩ | ⟨-, rfl⟩ | ⟨hd, -, rfl⟩⟩ := execReadHeader_next h <;>
      exact ⟨rfl, rfl, rfl, rfl⟩
  case validateHeader =>
    cases (execValidateHeader_eq s).symm.trans h
    split <;> exact ⟨rfl, rfl, rfl, rfl⟩
  case readPayload =>
    obtain ⟨-, rfl⟩ | ⟨-, bs, -, rfl⟩ := execReadPayload_next h <;> exact ⟨rfl, rfl, rfl, rfl⟩
  case validatePayload =>
    obtain ⟨span, -, ⟨-, -, rfl⟩ | ⟨-, -, rfl⟩ | ⟨-, rfl⟩⟩ := execValidatePayload_next h <;>
      exact ⟨rfl, rfl, rfl, rfl⟩
  case emit =>
    obtain ⟨-, rfl⟩ | ⟨-, rfl⟩ := execEmit_next h
    · exact ⟨rfl, rfl, rfl, rfl⟩
    · rw [emitted_frame]
      exact ⟨rfl, rfl, rfl, rfl⟩
  case resync => exact resyncFrom_sameInputs h
  case idxAppend => exact execIdxAppend_sameInputs h
  case start =>
    obtain ⟨-, rfl⟩ | ⟨-, -, rfl⟩ | ⟨-, -, rfl⟩ := execStart_next h <;> exact ⟨rfl, rfl, rfl, rfl⟩
  case softReset => exact absurd rfl hi
  case idle | done | fatal | cksum | pbufGrow | eOpen | eNoSync | eBadSync | eHdrSize | eCksumCap | eIndexFull =>
    cases h
    exact ⟨rfl, rfl, rfl, rfl⟩

/-! ## A loaded stream -/

theorem execSeekingSync_loaded (hl : s.StreamLoaded) : ∃ t, execSeekingSync s = .next t := by
  have hspec := findSync_spec s.stream s.rem s.cursor.toNat
  rw [execSeekingSync]
  cases hf : findSync s.stream s.rem s.cursor.toNat with
  | found p => exact ⟨_, rfl⟩
  | endOfStream => exact ⟨_, rfl⟩
  | absent =>
    rw [hf] at hspec
    obtain ⟨a, hge, hlt, hnone⟩ := hspec
    have := hl a (by rw [State.rem] at hlt; omega)
    simp [hnone] at this

theorem execReadHeader_loaded (hl : s.StreamLoaded) : ∃ t, execReadHeader s = .next t := by
  obtain ⟨bs, hb⟩ := loaded_window hl
  rw [execReadHeader_eq hb]
  rcases parseHeader bs with e | hd
  · cases e <;> exact ⟨_, rfl⟩
  · exact ⟨_, rfl⟩

theorem execReadPayload_loaded (hl : s.StreamLoaded) (hc : s.cursor.toNat ≤ s.len) :
    ∃ t, execReadPayload s = .next t := by
  rw [execReadPayload_eq]
  split
  next => exact ⟨_, rfl⟩
  next hr =>
    have hfits : s.cursor.toNat + s.h.dataSize.toNat ≤ s.len := by rw [State.rem] at hr; omega
    obtain ⟨bs, hb⟩ := loaded_span hl hfits
    rw [State.payloadBytes, hb]
    exact ⟨_, rfl⟩

theorem resyncFrom_loaded (hl : s.StreamLoaded) {c : Nat} (hc : c ≤ s.len) : ∃ t, s.resyncFrom c = .next t := by
  have hspec := findCandidate_spec s (s.len - c) c (by omega)
  rw [State.resyncFrom]
  cases hf : findCandidate s.stream s.lastFamily (s.len - c) c with
  | found p => exact ⟨_, rfl⟩
  | endOfStream => exact ⟨_, rfl⟩
  | absent =>
    rw [hf] at hspec
    obtain ⟨a, -, hlt, hnone⟩ := hspec
    have := hl a hlt
    simp [hnone] at this

/-- The buffer holds the whole payload in hand, so its checksum can be computed (R118, R146). -/
theorem execValidatePayload_inHand (hp : s.PayloadInHand) : ∃ t, execValidatePayload s = .next t := by
  have hspan : s.payloadSpan = some (s.pbuf.take s.h.dataSize.toNat) :=
    if_pos (Memory.readSpan_length hp.bytes).ge
  exact ⟨_, execValidatePayload_eq hspan⟩

/-- EMIT's own exhaustion test keeps the append's precondition (R142, R143). -/
theorem execEmit_counted (hc : s.count.toNat ≤ s.params.indexMax.toNat) : ∃ t, execEmit s = .next t := by
  by_cases hfull : s.count = s.params.indexMax
  · exact ⟨_, if_pos hfull⟩
  · have hne : s.count.toNat ≠ s.params.indexMax.toNat := fun h => hfull (BitVec.eq_of_toNat_eq h)
    exact ⟨_, execEmit_eq (by omega)⟩

/-- Under the invariant and over a loaded stream, the operation of the state register answers a next state. -/
theorem operation_answers (hinv : s.Inv) (hl : s.StreamLoaded) : ∃ t, exec (operationOf s.state) s = .next t := by
  have hscan : s.busy = true → s.ScanInv := hinv.scan
  rw [State.busy] at hscan
  cases hs : s.state <;> simp only [hs, true_implies] at hscan
  case idle | done | fatal => exact ⟨s, rfl⟩
  case seekingSync => exact execSeekingSync_loaded hl
  case readHeader => exact execReadHeader_loaded hl
  case validateHeader => exact ⟨_, execValidateHeader_eq s⟩
  case readPayload => exact execReadPayload_loaded hl hscan.cursorInStream
  case validatePayload => exact execValidatePayload_inHand (hscan.payload (.inl hs)).2
  case emit => exact execEmit_counted hinv.countMax
  case resync => exact resyncFrom_loaded hl hscan.cursorInStream

/-! ## The statements -/

/-- Settles O36: each access by whether a scan runs; a write changes its own byte and keeps the memory's form. -/
theorem hostMemoryAccessNeedsIdle : Obligations.HostMemoryAccessNeedsIdle := by
  refine ⟨fun s a v rest h => ?_, fun s a rest h => ?_, fun s a rest h => ?_⟩ <;>
    let t : State := { s with host := rest }
  · rw [step_writeStream h]
    exact ⟨fun hb => hostWriteStream_busy (s := t) hb a v, fun hb => ⟨_, hostWriteStream_idle (s := t) hb a v,
      Memory.read_write s.stream a.toNat v, fun hwf => Memory.wf_write hwf a.toNat v⟩⟩
  · rw [step_readStream h]
    exact ⟨fun hb => hostReadStream_busy (s := t) hb a, fun _ hb => hostReadStream_placed (s := t) hb,
      fun hb => hostReadStream_absent (s := t) hb⟩
  · rw [step_readIdx h]
    exact ⟨fun hb => hostReadIdx_busy (s := t) hb a, fun _ hb => hostReadIdx_below (s := t) hb,
      fun hb => hostReadIdx_beyond (s := t) hb⟩

/-- Settles O40: SOFT_RESET keeps the parameters and the host's side (log entry 19), every other row all the inputs. -/
theorem blockNeverWritesItsInputs : Obligations.BlockNeverWritesItsInputs := by
  intro i s t h
  by_cases hi : i = .softReset
  · subst hi
    cases h
    exact ⟨rfl, rfl, fun hne => absurd rfl hne⟩
  · obtain ⟨hparams, hhost, hstream, hcfg⟩ := exec_sameInputs hi h
    exact ⟨hparams, hhost, fun _ => ⟨hstream, hcfg⟩⟩

/-- Settles O49: the invariant and the loaded stream say nothing about the host's list, which is all `pass` changes. -/
theorem blockStepNeverStops : Obligations.BlockStepNeverStops := by
  intro s hinv hl hnext
  obtain ⟨rest, hstep⟩ := step_blockNext hnext
  rw [hstep]
  exact operation_answers (hinv.withHost rest s.hostData) hl

end Sys2Proof.Machine
end

section
/-! PROOFS. The code spaces: every instruction decodes back from its bytes, and the bytes that WIRE, WIRE4 and ID accept are
the encoding of what they decode to (spec/30_encoding.md R61 to R72); the ID rows as appends of the record in hand (R67,
spec/43_scanner.md R120). -/

namespace Sys2Proof

/-! ## Decode after encode -/

/-- The laws of Laws.RoundTrip, one a constructor, as one. -/
theorem decode_encode : ∀ i : Instr, Laws.RoundTrip.Statement i
  | .rec10 id f n d c => Laws.RoundTrip.rec10 id f n d c
  | .rec12 id f n d c => Laws.RoundTrip.rec12 id f n d c
  | .resyncCandidate10 id f => Laws.RoundTrip.resyncCandidate10 id f
  | .resyncCandidate12 id f => Laws.RoundTrip.resyncCandidate12 id f
  | .id21 => Laws.RoundTrip.id21
  | .id22 => Laws.RoundTrip.id22
  | .id23 => Laws.RoundTrip.id23
  | .id24 => Laws.RoundTrip.id24
  | .id26 => Laws.RoundTrip.id26
  | .id27 => Laws.RoundTrip.id27
  | .id28 => Laws.RoundTrip.id28
  | .id29 => Laws.RoundTrip.id29
  | .id30 => Laws.RoundTrip.id30
  | .id31 => Laws.RoundTrip.id31
  | .id160 => Laws.RoundTrip.id160
  | .idUnknown b => Laws.RoundTrip.idUnknown b
  | .idle => Laws.RoundTrip.idle
  | .seekingSync => Laws.RoundTrip.seekingSync
  | .readHeader => Laws.RoundTrip.readHeader
  | .validateHeader => Laws.RoundTrip.validateHeader
  | .readPayload => Laws.RoundTrip.readPayload
  | .validatePayload => Laws.RoundTrip.validatePayload
  | .emit => Laws.RoundTrip.emit
  | .resync => Laws.RoundTrip.resync
  | .done => Laws.RoundTrip.done
  | .fatal => Laws.RoundTrip.fatal
  | .cksum bs => Laws.RoundTrip.cksum bs
  | .idxAppend o n id k => Laws.RoundTrip.idxAppend o n id k
  | .pbufGrow => Laws.RoundTrip.pbufGrow
  | .start => Laws.RoundTrip.start
  | .softReset => Laws.RoundTrip.softReset
  | .eOpen => Laws.RoundTrip.eOpen
  | .eNoSync => Laws.RoundTrip.eNoSync
  | .eBadSync => Laws.RoundTrip.eBadSync
  | .eHdrSize => Laws.RoundTrip.eHdrSize
  | .eCksumCap => Laws.RoundTrip.eCksumCap
  | .eIndexFull => Laws.RoundTrip.eIndexFull

/-! ## Encode after decode -/

/-- The eleven rows of the known identifiers, each with its own number (R67). -/
def knownRows : List (Instr × Byte) :=
  [(.id21, 21), (.id22, 22), (.id23, 23), (.id24, 24), (.id26, 26), (.id27, 27), (.id28, 28), (.id29, 29), (.id30, 30),
   (.id31, 31), (.id160, 160)]

theorem knownRows_decodeId : ∀ r ∈ knownRows, decodeId r.2 = r.1 ∧ Machine.known r.2 = true := by decide

theorem knownRows_encode : ∀ r ∈ knownRows, r.1.format = .ident ∧ r.1.wellFormed = true ∧ encode r.1 = [r.2] := by decide

/-- Every identifier is the encoding of the row it selects: a known one's row has that number, ID_UNKNOWN carries it. -/
theorem decodeId_accepts (b : Byte) :
    (decodeId b).format = .ident ∧ (decodeId b).wellFormed = true ∧ encode (decodeId b) = [b] := by
  cases hk : Machine.known b with
  | true => exact knownRows_encode _ (Machine.decodeId_known b hk)
  | false =>
    have hw : (Instr.idUnknown b).wellFormed = true := congrArg not hk
    rw [Machine.decodeId_unknown b hk]
    exact ⟨rfl, hw, rfl⟩

theorem decodeCandidate_accepts {bs rest : List Byte} {i : Instr} (h : decodeCandidate bs = .ok (i, rest)) :
    i.format = .wire4 ∧ i.wellFormed = true ∧ bs = encode i ++ rest := by
  rw [decodeCandidate.eq_def] at h
  split at h
  next b0 b1 id family tail =>
    split_ifs at h with hsync h10 h12
    · cases h; exact ⟨rfl, rfl, by rw [hsync, h10]; rfl⟩
    · cases h; exact ⟨rfl, rfl, by rw [hsync, h12]; rfl⟩
  next => cases h

/-- `parseHeader_cases` has it that a header that parses is the encoding of its WIRE row. -/
theorem decodeWire_accepts {bs rest : List Byte} {i : Instr} (h : decodeWire bs = .ok (i, rest)) :
    i.format = .wire ∧ i.wellFormed = true ∧ bs = encode i ++ rest := by
  have hcases := parseHeader_cases bs
  rw [decodeWire] at h
  rcases hp : parseHeader bs with e | hd <;> rw [hp] at h hcases
  · cases h
  · dsimp only at h
    rcases hcases with ⟨id, f, n, d, c, rfl, hb⟩ | ⟨id, f, n, d, c, rfl, hb⟩
    · rw [Machine.ofHeader_h10] at h
      cases h
      exact ⟨rfl, rfl, hb⟩
    · rw [Machine.ofHeader_h12] at h
      cases h
      exact ⟨rfl, rfl, hb⟩

/-! ## The statements about the encoding -/

/-- Settles O6: `decode_encode`, constructor by constructor. -/
theorem decodeEncodeEveryInstruction : Obligations.DecodeEncodeEveryInstruction :=
  fun i rest hwf => decode_encode i hwf rest

/-- Settles O7: one lemma for each of the three decoders; the ID decoder reads one byte and accepts every value of it. -/
theorem acceptedBytesAreTheEncoding : Obligations.AcceptedBytesAreTheEncoding := by
  rintro f i bs rest (rfl | rfl | rfl) h
  · exact decodeWire_accepts h
  · exact decodeCandidate_accepts h
  · cases bs with
    | nil => cases h
    | cons b tail =>
      cases h
      obtain ⟨hformat, hwf, henc⟩ := decodeId_accepts b
      exact ⟨hformat, hwf, by rw [henc]; rfl⟩

/-- Settles O8: the decoders run on the words the spec writes out. -/
theorem specWordsDecode : Obligations.SpecWordsDecode := by
  unfold Obligations.SpecWordsDecode
  decide

end Sys2Proof

namespace Sys2Proof.Machine

/-! ## The ID rows -/

/-- A known identifier's row is the append of the record in hand under its number (R67, R120). -/
theorem exec_knownRow {r : Instr × Byte} (hr : r ∈ knownRows) (s : State) : exec r.1 s = s.indexKnown r.2 := by
  obtain ⟨hrow, hknown⟩ := knownRows_decodeId r hr
  rw [← hrow, exec_decodeId, State.classify, if_pos hknown]

/-- What a state with an append's index, count and capacity holds there, below `INDEX_MAX` (R141, R142, R44). -/
theorem appended_of_index {s t : State} (h : s.count.toNat < s.params.indexMax.toNat) {o : U64} {n : U32} {i : Byte}
    {k : Bool} (hcount : t.count = (s.idxAppend o n i k).count) (hcap : t.idxCap = (s.idxAppend o n i k).idxCap)
    (hidx : t.idx = (s.idxAppend o n i k).idx) :
    t.count.toNat = s.count.toNat + 1 ∧ t.idxCap = s.capAfterAppend ∧ s.EntryWritten o n i k t.idx ∧
    t.entryAt s.count.toNat = some ⟨o, n, i, k⟩ := by
  rw [State.entryAt_congr hidx, hcount, hcap, hidx]
  exact ⟨State.idxAppend_count_toNat h o n i k, State.idxAppend_cap s o n i k, State.idxAppend_written s o n i k,
    State.idxAppend_entryAt_new s o n i k⟩

/-- Settles O24: every ID row is one append of the record in hand, and ID_UNKNOWN's event touches the log alone. -/
theorem identifierRowsAppendTheirEntry : Obligations.IdentifierRowsAppendTheirEntry := by
  intro s h
  refine ⟨fun r hr => ?_, fun b _ => ?_⟩
  · exact ⟨_, (exec_knownRow hr s).trans (indexKnown_eq h r.2), rfl, appended_of_index h rfl rfl rfl⟩
  · exact ⟨_, indexUnknown_eq h b, rfl, appended_of_index h rfl rfl rfl⟩

end Sys2Proof.Machine
end

section
/-! PROOFS. The checksum engine (spec/40_checksum.md R80, R82): each law of the checksum is a law of the span's word sum,
on which alone `cksum` depends (`cksum_eq`, `cksum_toNat`). -/

namespace Sys2Proof.Machine

/-! ## The word sum -/

/-- The closed form of R80: the complete pairs, and an odd trailing byte as a high byte. -/
theorem wordSum_eq_sum (bs : List Byte) :
    wordSum bs = (Finset.range (bs.length / 2)).sum
        (fun i => (bs.getD (2 * i) 0).toNat + 256 * (bs.getD (2 * i + 1) 0).toNat)
      + (if bs.length % 2 = 1 then 256 * (bs.getD (bs.length - 1) 0).toNat else 0) := by
  fun_induction wordSum bs with
  | case1 => simp
  | case2 b => simp
  | case3 b0 b1 rest ih =>
    have htail : rest.length % 2 = 1 → (b0 :: b1 :: rest).getD (rest.length + 1) 0 = rest.getD (rest.length - 1) 0 := by
      intro hodd
      rw [show rest.length + 1 = rest.length - 1 + 2 by omega]
      rfl
    have hpairs : (rest.length + 2) / 2 = rest.length / 2 + 1 := by omega
    have hpar : (rest.length + 2) % 2 = rest.length % 2 := by omega
    rw [ih]
    simp only [List.length_cons, Nat.add_assoc, Nat.reduceAdd, hpairs, hpar, Finset.sum_range_succ', Nat.mul_add]
    split_ifs with hodd
    · rw [show rest.length + 2 - 1 = rest.length + 1 from rfl, htail hodd]
      simp
      omega
    · simp
      omega

/-- A span spelled out pair by pair sums to the sum of its pairs' words. -/
theorem wordSum_flatMap_pairs (ps : List (Byte × Byte)) :
    wordSum (ps.flatMap fun p => [p.1, p.2]) = (ps.map fun p => p.1.toNat + 256 * p.2.toNat).sum := by
  induction ps with
  | nil => rfl
  | cons p ps ih => simp [wordSum, ih]

/-- One byte enters the word sum with its own weight: 1 as the low byte of a pair, 256 as a high byte or as the odd
trailing byte (R82 law 2). -/
theorem wordSum_affine_in_byte (xs ys : List Byte) :
    ∃ w r, (w = 1 ∨ w = 256) ∧ ∀ c : Byte, wordSum (xs ++ c :: ys) = r + w * c.toNat := by
  fun_induction wordSum xs with
  | case1 =>
    cases ys with
    | nil => exact ⟨256, 0, .inr rfl, fun c => by simp [wordSum]⟩
    | cons y ys => exact ⟨1, 256 * y.toNat + wordSum ys, .inl rfl, fun c => by simp [wordSum]; omega⟩
  | case2 x => exact ⟨256, x.toNat + wordSum ys, .inr rfl, fun c => by simp [wordSum]; omega⟩
  | case3 x0 x1 rest ih =>
    obtain ⟨w, r, hw, hsum⟩ := ih
    exact ⟨w, x0.toNat + 256 * x1.toNat + r, hw, fun c => by simp [wordSum, hsum]; omega⟩

theorem wordSum_replicate_zero : ∀ n : Nat, wordSum (List.replicate n 0) = 0
  | 0 => rfl
  | 1 => rfl
  | n + 2 => by simpa [List.replicate_succ, wordSum] using wordSum_replicate_zero n

/-! ## The checksum -/

theorem cksum_congr {xs ys : List Byte} (h : wordSum xs = wordSum ys) : cksum xs = cksum ys := by
  rw [cksum_eq, cksum_eq, h]

/-- A byte's weight times a difference of two bytes is never a multiple of 2^16. -/
theorem cksum_ne_of_byte_ne (xs ys : List Byte) {a b : Byte} (hab : a ≠ b) :
    cksum (xs ++ a :: ys) ≠ cksum (xs ++ b :: ys) := by
  intro heq
  obtain ⟨w, r, hw, hsum⟩ := wordSum_affine_in_byte xs ys
  have hnat : (46476 + (r + w * a.toNat)) % 65536 = (46476 + (r + w * b.toNat)) % 65536 := by
    rw [← hsum, ← hsum, ← cksum_toNat, ← cksum_toNat, heq]
  have ha := a.isLt
  have hb := b.isLt
  refine hab (BitVec.eq_of_toNat_eq ?_)
  rcases hw with rfl | rfl <;> omega

/-! ## The statements about the checksum -/

/-- Settles O26: the closed form of the word sum; the engine writes its output and nothing else. -/
theorem checksumIsSeedPlusWords : Obligations.ChecksumIsSeedPlusWords := by
  intro bs s
  refine ⟨?_, rfl⟩
  rw [cksum_toNat, wordSum_eq_sum, Nat.add_assoc]

/-- Settles O27: the sum of the pairs' words does not depend on their order. -/
theorem checksumIgnoresPairOrder : Obligations.ChecksumIgnoresPairOrder := by
  intro ps qs hperm
  apply cksum_congr
  rw [wordSum_flatMap_pairs, wordSum_flatMap_pairs]
  exact (hperm.map _).sum_eq

/-- Settles O28: `cksum_ne_of_byte_ne`. -/
theorem checksumSeesOneByte : Obligations.ChecksumSeesOneByte :=
  fun xs ys _ _ hab => cksum_ne_of_byte_ne xs ys hab

/-- Settles O29: zeros add nothing to the seed; the pair `0, b` and the odd byte `b` are the same word. -/
theorem checksumZeroSpanAndOddTail : Obligations.ChecksumZeroSpanAndOddTail := by
  refine ⟨fun n => ?_, fun bs b heven => cksum_congr ?_⟩
  · rw [cksum_eq, wordSum_replicate_zero]
    rfl
  · rw [wordSum_append bs heven, wordSum_append bs heven]
    simp [wordSum]

end Sys2Proof.Machine
end

section
/-! PROOFS. The header reader (spec/41_header_reader.md R92 to R95): what the parser answers to the bytes it is given, the
WIRE rows by whether the stream reaches the header's end, and READ_HEADER, which over bytes that parse is the WIRE row of
their header. -/

namespace Sys2Proof

/-! ## The checks of the parser -/

/-- Check 1 (R92), with no byte at all too. -/
theorem parseHeader_badSync {bs : List Byte} (h : bs[0]? ≠ some Config.sync) : parseHeader bs = .error .badSync := by
  rcases bs with _ | ⟨b0, _ | ⟨b1, rest⟩⟩
  · rfl
  · exact if_neg fun hb => h (congrArg some hb)
  · exact if_neg fun hb => h (congrArg some hb)

/-- The second byte of a header that parses is its size. -/
theorem parseHeader_ok_size {bs : List Byte} {hd : Header} (hp : parseHeader bs = .ok hd) :
    bs[1]? = some hd.headerSize := by
  have hcases := parseHeader_cases bs
  rw [hp] at hcases
  rcases hcases with ⟨i, f, n, d, c, rfl, hb⟩ | ⟨i, f, n, d, c, rfl, hb⟩ <;> rw [hb] <;> rfl

/-- Check 3 (R92). -/
theorem parseHeader_badSize {bs : List Byte} {size : Byte} (hsync : bs[0]? = some Config.sync)
    (hsize : bs[1]? = some size) (h10 : size ≠ Config.hs10) (h12 : size ≠ Config.hs12) :
    parseHeader bs = .error .badSize := by
  match bs, hsync, hsize with
  | b0 :: b1 :: rest, hsync, hsize =>
    cases hsync
    cases hsize
    simp [parseHeader, h10, h12]

/-- Checks 2 and 4 (R92): the bytes end before the size byte, or before the header it announces does. -/
theorem parseHeader_short {bs : List Byte} (hsync : bs[0]? = some Config.sync)
    (hcut : bs.length < 2 ∨
      ∃ size, bs[1]? = some size ∧ (size = Config.hs10 ∨ size = Config.hs12) ∧ bs.length < size.toNat) :
    parseHeader bs = .error .short := by
  have hcases := parseHeader_cases bs
  rcases hp : parseHeader bs with (_ | _ | _) | hd <;> rw [hp] at hcases
  case error.badSync => exact absurd (List.head?_eq_getElem? ▸ hsync) hcases
  case error.badSize =>
    obtain ⟨-, b, hb, h10, h12⟩ := hcases
    obtain hlen | ⟨size, hsize, hor, -⟩ := hcut
    · rw [List.getElem?_eq_none (by omega)] at hb
      cases hb
    · cases hb.symm.trans hsize
      exact (hor.elim h10 h12).elim
  case ok =>
    have hfits := Machine.parse_ok_length hp
    have hmin := Machine.parse_size hp
    obtain hlen | ⟨size, hsize, -, hlen⟩ := hcut
    · omega
    · cases (parseHeader_ok_size hp).symm.trans hsize
      omega

end Sys2Proof

namespace Sys2Proof.Machine

variable {s : State} {w : Window} {bs : List Byte} {hd : Header}

/-! ## The window at the cursor -/

/-- The window's bytes below the end of the stream are the stream's (R92). -/
theorem windowBytes_getElem? (hb : s.windowBytes = some bs) {i : Nat} (hi : i < 12) (hlt : s.cursor.toNat + i < s.len) :
    bs[i]? = s.stream.read (s.cursor.toNat + i) := by
  obtain ⟨-, hread⟩ := Memory.readSpan_eq_some.1 hb
  exact (hread i (by rw [Config.hdrWindow]; omega)).symm

/-- Over a loaded stream the reader takes in exactly the window at the cursor (R11, R92). -/
theorem loadWindow_loaded (hl : s.StreamLoaded) (hw : s.WindowAtCursor w) :
    ∃ bs, s.windowBytes = some bs ∧ s.loadWindow bs = { s with hdrStart := s.cursor, hbuf := w } := by
  obtain ⟨bs, hb⟩ := loaded_window hl
  exact ⟨bs, hb, by rw [State.loadWindow, window_unique hw hb]⟩

/-! ## The WIRE rows -/

/-- A WIRE row with all of its header in the stream reads it (R92 to R95). -/
theorem readRecord_complete (hl : s.StreamLoaded) (hw : s.WindowAtCursor w) (hd : Header)
    (hfits : s.cursor.toNat + hd.headerSize.toNat ≤ s.len) :
    s.readRecord hd = .next (State.acceptHeader { s with hdrStart := s.cursor, hbuf := w } hd) := by
  obtain ⟨bs, hb, hload⟩ := loadWindow_loaded hl hw
  rw [readRecord_eq hb, if_neg (by rw [State.rem]; omega), hload]

/-- A WIRE row whose header the stream cuts off ends the scan early (R92 check 4). -/
theorem readRecord_short (hl : s.StreamLoaded) (hw : s.WindowAtCursor w) (hd : Header)
    (hcut : s.rem < hd.headerSize.toNat) :
    s.readRecord hd = .next (State.endEarly { s with hdrStart := s.cursor, hbuf := w } .shortRead s.cursor) := by
  obtain ⟨bs, hb, hload⟩ := loadWindow_loaded hl hw
  rw [readRecord_eq hb, if_pos hcut, hload]

/-- REC10 with its header in the stream leaves `used_12_byte_header` as it is (R93, R95). -/
theorem execRec10_complete (hl : s.StreamLoaded) (hw : s.WindowAtCursor w) (hfits : s.cursor.toNat + 10 ≤ s.len)
    (id family : Byte) (n d c : U16) :
    execRec10 id family n d c s = .next { s with
      hdrStart := s.cursor, hbuf := w, h := Header.h10 id family n d c, lastFamily := family,
      cursor := u64 (s.cursor.toNat + 10), state := .validateHeader } := by
  have hused : (s.used12 || Config.hs10 == Config.hs12) = s.used12 := Bool.or_false _
  rw [execRec10, readRecord_complete hl hw (Header.h10 id family n d c) hfits, State.acceptHeader,
    Header.h10_headerSize, hused]
  rfl

/-- REC12 with its header in the stream sets `used_12_byte_header` (R94, R95). -/
theorem execRec12_complete (hl : s.StreamLoaded) (hw : s.WindowAtCursor w) (hfits : s.cursor.toNat + 12 ≤ s.len)
    (id family : Byte) (n : U32) (d c : U16) :
    execRec12 id family n d c s = .next { s with
      hdrStart := s.cursor, hbuf := w, h := Header.h12 id family n d c, lastFamily := family, used12 := true,
      cursor := u64 (s.cursor.toNat + 12), state := .validateHeader } := by
  have hused : (s.used12 || Config.hs12 == Config.hs12) = true := Bool.or_true _
  rw [execRec12, readRecord_complete hl hw (Header.h12 id family n d c) hfits, State.acceptHeader,
    Header.h12_headerSize, hused]
  rfl

/-! ## READ_HEADER is the WIRE row of the header at the cursor -/

/-- The WIRE row of a header that parses reads that header (R61, R62; log entry 9). -/
theorem exec_ofHeader (hp : parseHeader bs = .ok hd) (s : State) : exec (Instr.ofHeader hd) s = s.readRecord hd := by
  have hcases := parseHeader_cases bs
  rw [hp] at hcases
  rcases hcases with ⟨i, f, n, d, c, rfl, -⟩ | ⟨i, f, n, d, c, rfl, -⟩
  · rw [ofHeader_h10]; rfl
  · rw [ofHeader_h12]; rfl

/-- The window holds all of a header that parses from it, so check 4 passes in the WIRE row too. -/
theorem execReadHeader_of_parse (hb : s.windowBytes = some bs) (hp : parseHeader bs = .ok hd) :
    execReadHeader s = s.readRecord hd := by
  have hlen := parse_ok_length hp
  rw [windowBytes_length hb] at hlen
  rw [execReadHeader_eq hb, readRecord_eq hb, hp, if_neg (by rw [State.rem]; omega)]

/-- A complete header the stream holds at the cursor is the one READ_HEADER reads (R92). -/
theorem execReadHeader_of_holds {bytes : List Byte} (hl : s.StreamLoaded) (hh : s.Holds s.cursor.toNat bytes)
    (hp : parseHeader bytes = .ok hd) (h12 : bytes.length ≤ 12) (hfits : s.cursor.toNat + bytes.length ≤ s.len) :
    execReadHeader s = s.readRecord hd := by
  obtain ⟨bs, hb⟩ := loaded_window hl
  have hparse : parseHeader bs = .ok hd := by
    rw [holds_window hb hh h12 hfits]
    exact parse_append hp _
  exact execReadHeader_of_parse hb hparse

/-! ## The statements -/

/-- Settles O3: bytes that decode parse to a header, whose WIRE row and READ_HEADER both read it. -/
theorem readHeaderRunsRecordAtCursor : Obligations.ReadHeaderRunsRecordAtCursor := by
  intro s i bs rest hb hd
  rw [decode, decodeWire] at hd
  cases hp : parseHeader bs with
  | error e => rw [hp] at hd; cases hd
  | ok h =>
    rw [hp] at hd
    cases hd
    exact (execReadHeader_of_parse hb hp).trans (exec_ofHeader hp s).symm

/-- Settles O14: the window's first two bytes are the stream's, and each check is the parser's. -/
theorem readHeaderChecksInOrder : Obligations.ReadHeaderChecksInOrder := by
  intro s w hl hc hw
  obtain ⟨bs, hb, hload⟩ := loadWindow_loaded hl hw
  have hlen := windowBytes_length hb
  have hfirst : bs[0]? = s.stream.read s.cursor.toNat := windowBytes_getElem? hb (by omega) hc
  have hexec := execReadHeader_eq hb
  rw [hload] at hexec
  refine ⟨fun hsync => ?_, fun hsync => ⟨fun hlast => ?_, fun size hlt hsize => ?_⟩⟩
  · rw [parseHeader_badSync (by rwa [hfirst])] at hexec
    exact hexec
  · rw [parseHeader_short (hfirst.trans hsync) (.inl (by omega))] at hexec
    exact hexec
  · have hsecond : bs[1]? = some size := (windowBytes_getElem? hb (by omega) hlt).trans hsize
    refine ⟨fun h10 h12 => ?_, fun hor hcut => ?_⟩
    · rw [parseHeader_badSize (hfirst.trans hsync) hsecond h10 h12] at hexec
      exact hexec
    · rw [parseHeader_short (hfirst.trans hsync) (.inr ⟨size, hsecond, hor, by omega⟩)] at hexec
      exact hexec

/-- Settles O15: READ_HEADER is REC10 with the fields the ten bytes stand for. -/
theorem readHeaderDecodesH10 : Obligations.ReadHeaderDecodesH10 := by
  intro s w id family n0 n1 d0 d1 c0 c1 hl hfits hw hh
  have hparse : parseHeader [0xA5, 0x0A, id, family, n0, n1, d0, d1, c0, c1] =
      .ok (Header.h10 id family (le16 n0 n1) (le16 d0 d1) (le16 c0 c1)) := rfl
  have hrec : exec .readHeader s = execRec10 id family (le16 n0 n1) (le16 d0 d1) (le16 c0 c1) s :=
    execReadHeader_of_holds hl hh hparse (by simp) hfits
  rw [hrec, execRec10_complete hl hw hfits, Header.h10, le16_toNat]
  rfl

/-- Settles O16: READ_HEADER is REC12 with the fields the twelve bytes stand for. -/
theorem readHeaderDecodesH12 : Obligations.ReadHeaderDecodesH12 := by
  intro s w id family n0 n1 n2 n3 d0 d1 c0 c1 hl hfits hw hh
  have hparse : parseHeader [0xA5, 0x0C, id, family, n0, n1, n2, n3, d0, d1, c0, c1] =
      .ok (Header.h12 id family (le32 n0 n1 n2 n3) (le16 d0 d1) (le16 c0 c1)) := rfl
  have hrec : exec .readHeader s = execRec12 id family (le32 n0 n1 n2 n3) (le16 d0 d1) (le16 c0 c1) s :=
    execReadHeader_of_holds hl hh hparse (by simp) hfits
  exact hrec.trans (execRec12_complete hl hw hfits _ _ _ _ _)

/-- Settles O17: the complete rows field by field, the cut ones by check 4. -/
theorem recordRowsReadTheHeader : Obligations.RecordRowsReadTheHeader := by
  intro s w id family n16 d c n32 hl hw
  refine ⟨fun hfits => ?_, fun hcut => ?_, fun hfits => ?_, fun hcut => ?_⟩
  · rw [← BitVec.ofNat_toNat]
    exact execRec10_complete hl hw hfits id family n16 d c
  · have hrem : s.rem < 10 := by rw [State.rem]; omega
    exact readRecord_short hl hw (Header.h10 id family n16 d c) hrem
  · exact execRec12_complete hl hw hfits id family n32 d c
  · have hrem : s.rem < 12 := by rw [State.rem]; omega
    exact readRecord_short hl hw (Header.h12 id family n32 d c) hrem

end Sys2Proof.Machine
end

section
/-! PROOFS. The resynchronizer (spec/42_resync.md R101): its search at four bytes that are a plausible header up to their
family, and the WIRE4 rows by whether the candidate is accepted (R68; log entry 10). -/

namespace Sys2Proof.Machine

variable {s : State} {family : Byte} {bs : List Byte}

/-! ## The candidate at the cursor -/

theorem tryCandidate_accepts (hfits : s.cursor.toNat + 3 < s.len) (hf : family = s.lastFamily) :
    s.tryCandidate family = .next { s with state := .readHeader } := by
  rw [State.tryCandidate, if_pos ⟨hfits, hf⟩, State.endSearch, u64, BitVec.ofNat_toNat, BitVec.setWidth_eq]

theorem tryCandidate_rejects (h : s.len ≤ s.cursor.toNat + 3 ∨ family ≠ s.lastFamily) :
    s.tryCandidate family = s.resyncFrom (s.cursor.toNat + 1) :=
  if_neg fun ⟨hfits, hf⟩ => h.elim (Nat.not_le.2 hfits) (· hf)

/-- The search at a candidate whose four bytes lie in the stream turns on the family byte alone (R101). -/
theorem findCandidate_at_candidate {m : Memory} {n p : Nat} (hn : 3 ≤ n) (hs : m.readSpan p 4 = some bs)
    (hc : candidateFamily bs = some family) (last : Byte) :
    findCandidate m last (n + 1) p = if family = last then .found p else findCandidate m last n (p + 1) := by
  have hsync : m.read p = some Config.sync := by
    obtain ⟨hsync, -⟩ := (candidateFamily_eq_some bs family).1 hc
    exact ((Memory.readSpan_eq_some.1 hs).2 0 (by omega)).trans hsync
  simp [findCandidate, hsync, Nat.min_eq_left (show 4 ≤ n + 1 by omega), hs, hc]

/-- RESYNC at a candidate whose four bytes lie in the stream accepts or rejects it as its row does (R101, R119). -/
theorem execResync_at_candidate (hfits : s.cursor.toNat + 4 ≤ s.len) (hs : s.stream.readSpan s.cursor.toNat 4 = some bs)
    (hc : candidateFamily bs = some family) : execResync s = s.tryCandidate family := by
  have hrem : s.len - s.cursor.toNat = s.len - (s.cursor.toNat + 1) + 1 := by omega
  rw [execResync, State.resyncFrom, hrem, findCandidate_at_candidate (by omega) hs hc]
  by_cases hf : family = s.lastFamily
  · rw [if_pos hf, State.tryCandidate, if_pos ⟨by omega, hf⟩]
  · rw [if_neg hf, tryCandidate_rejects (.inr hf), State.resyncFrom]

/-- Bytes that decode to a WIRE4 row carry the family which that row tries (R68). -/
theorem exec_of_decodeCandidate {rest : List Byte} {i : Instr} (h : decodeCandidate bs = .ok (i, rest)) (s : State) :
    ∃ family, candidateFamily bs = some family ∧ exec i s = s.tryCandidate family := by
  obtain ⟨hformat, -, -⟩ := decodeCandidate_accepts h
  cases i <;> cases hformat
  case resyncCandidate10 id family => exact ⟨family, by rw [candidateFamily, h], rfl⟩
  case resyncCandidate12 id family => exact ⟨family, by rw [candidateFamily, h], rfl⟩

/-! ## The statements -/

/-- Settles O4: the bytes' family is the row's, and the search and the row test that family alike. -/
theorem resyncRunsCandidateAtCursor : Obligations.ResyncRunsCandidateAtCursor := by
  intro s i bs hfits hs hd
  obtain ⟨family, hc, hrow⟩ := exec_of_decodeCandidate hd s
  exact (execResync_at_candidate hfits hs hc).trans hrow.symm

/-- Settles O21: RESYNC is the search from the cursor, `resyncFrom_first`. -/
theorem resyncFindsFirstPlausibleHeader : Obligations.ResyncFindsFirstPlausibleHeader :=
  fun _ hl hc => resyncFrom_first hl hc

/-- Settles O22: a rejected candidate leaves the search from the byte after the cursor, `resyncFrom_first`. -/
theorem candidateRowsAcceptOrSearchOn : Obligations.CandidateRowsAcceptOrSearchOn := by
  intro s id family i hi hl hc
  have hrow : exec i s = s.tryCandidate family := by rcases hi with rfl | rfl <;> rfl
  rw [hrow]
  refine ⟨tryCandidate_accepts, fun hreject => ?_⟩
  rw [tryCandidate_rejects hreject]
  exact resyncFrom_first hl hc

end Sys2Proof.Machine
end

section
/-! PROOFS. The invariant of every state (spec/43_scanner.md R125, spec/44_buffers.md R140): what each move of the block does
to each part of it, then the host's commands and accesses, so that reset meets it and every step keeps it. -/

namespace Sys2Proof.Machine

variable {s t : State}

/-! ## EMIT's stop test -/

/-- The state after EMIT's append (R120): DONE at the bound or at the end of the stream. -/
theorem emitted_state (hc : s.count.toNat < s.params.indexMax.toNat) (id : Byte) :
    (s.classified id).stopOrGoOn.state =
      if (s.cfg.toArg ≠ 0 ∧ s.count.toNat + 1 = s.cfg.toArg.toNat) ∨ s.cursor = s.cfg.streamLen
        then .done else .readHeader := by
  have hcount : (u64 (s.count.toNat + 1)).toNat = s.count.toNat + 1 := u64_toNat (by omega)
  rw [stopOrGoOn_eq, classified_frame]
  simp only [hcount]

/-- EMIT goes on only before the bound and before the end of the stream (R120). -/
theorem emitted_goesOn (hc : s.count.toNat < s.params.indexMax.toNat) {id : Byte}
    (h : (s.classified id).stopOrGoOn.state = .readHeader) :
    (s.cfg.toArg ≠ 0 → s.count.toNat + 1 ≠ s.cfg.toArg.toNat) ∧ s.cursor ≠ s.cfg.streamLen := by
  rw [emitted_state hc] at h
  split at h
  · cases h
  next hgo => exact ⟨fun h1 h2 => hgo (.inl ⟨h1, h2⟩), fun h2 => hgo (.inr h2)⟩

theorem emitted_state_cases (id : Byte) :
    (s.classified id).stopOrGoOn.state = .done ∨ (s.classified id).stopOrGoOn.state = .readHeader :=
  stopOrGoOn_state _

theorem emitted_not_fatal (id : Byte) : (s.classified id).stopOrGoOn.state ≠ .fatal := by
  rcases emitted_state_cases id with hs | hs <;> rw [hs] <;> nofun

theorem state_of_emitted_busy {id : Byte} (h : (s.classified id).stopOrGoOn.busy = true) :
    (s.classified id).stopOrGoOn.state = .readHeader :=
  (emitted_state_cases id).resolve_left fun hd => by rw [State.busy, hd] at h; cases h

/-- After EMIT the entries' part of the stream reaches the cursor (R120). -/
theorem emitted_indexedUpTo (id : Byte) : (s.classified id).stopOrGoOn.indexedUpTo = s.cursor.toNat := by
  have hcur : (s.classified id).stopOrGoOn.cursor = s.cursor := by rw [emitted_frame]
  rw [State.indexedUpTo, hcur]
  rcases emitted_state_cases id with hs | hs <;> rw [hs]

/-! ## The order of the index -/

/-- An entry whose record lies between the old bound and the new one keeps the order (R125 items 2 and 3). -/
theorem State.IndexInOrder.append {b c : Nat} (h : s.IndexInOrder b) (hc : s.count.toNat < s.params.indexMax.toNat)
    {off : U64} {n : U32} {id : Byte} (hlow : b + 10 ≤ off.toNat + s.leftOut)
    (hhigh : off.toNat + n.toNat + s.leftOut ≤ c) : (s.idxAppend off n id (known id)).IndexInOrder c := by
  have hcount := State.idxAppend_count_toNat hc off n id (known id)
  have hnew := State.idxAppend_entryAt_new s off n id (known id)
  have hold : ∀ {i}, i < s.count.toNat → (s.idxAppend off n id (known id)).entryAt i = s.entryAt i :=
    State.idxAppend_entryAt_old s off n id (known id)
  have hleft : (s.idxAppend off n id (known id)).leftOut = s.leftOut := rfl
  refine ⟨fun i hi => ?_, fun i e f hi he hf => ?_⟩
  · rw [hcount] at hi
    rcases Nat.lt_succ_iff_lt_or_eq.1 hi with hlt | rfl
    · obtain ⟨e, he, hend, hpay, hknown⟩ := h.entry i hlt
      exact ⟨e, (hold hlt).trans he, by omega, hpay, hknown⟩
    · refine ⟨_, hnew, hhigh, fun hpay => ?_, rfl⟩
      have : s.leftOut = 0 := by rw [State.leftOut, show s.params.offsetRef = .payload from hpay]
      show 10 ≤ off.toNat
      omega
  · rw [hcount] at hi
    rw [hold (by omega)] at he
    rcases Nat.lt_succ_iff_lt_or_eq.1 hi with hlt | heq
    · rw [hold hlt] at hf
      exact h.rising i e f hlt he hf
    · rw [heq, hnew] at hf
      cases hf
      obtain ⟨e', he', hend, -, -⟩ := h.entry i (by omega)
      cases he.symm.trans he'
      show _ ≤ off.toNat
      omega

/-- The record in hand lies between `hdr_start` and the cursor, its header at least 10 bytes long (R20, R120). -/
theorem State.entryOffset_bounds (hh : s.HeaderInHand) (hp : s.PayloadInHand) :
    s.hdrStart.toNat + 10 ≤ s.entryOffset.toNat + s.leftOut ∧
    s.entryOffset.toNat + s.h.dataSize.toNat + s.leftOut ≤ s.cursor.toNat := by
  have hsize := parse_size hh.fields
  have hstart := hp.start
  have hcursor := hp.cursor
  rw [State.entryOffset, State.leftOut]
  cases s.params.offsetRef <;> simp only <;> omega

/-- While a scan runs, the entries' part of the stream ends at or before the cursor. -/
theorem State.indexedUpTo_le_cursor (h : s.hdrStart.toNat ≤ s.cursor.toNat) : s.indexedUpTo ≤ s.cursor.toNat := by
  rw [State.indexedUpTo]
  cases s.state <;> simp [h]

/-- No scan runs in IDLE, DONE and FATAL (R22). -/
theorem busy_eq_false_iff : s.busy = false ↔ s.state = .idle ∨ s.Terminal := by
  rw [State.busy, State.Terminal]
  cases s.state <;> simp

/-- An append below a memory of just `count` entries leaves one of just `count + 1` (R43, R142). -/
theorem idxAppend_cells (h : ∀ a, (s.idx.read a).isSome = true ↔ a < 16 * s.count.toNat) (off : U64) (n : U32)
    (id : Byte) (k : Bool) (a : Nat) :
    ((s.idxAppend off n id k).idx.read a).isSome = true ↔ a < 16 * (s.count.toNat + 1) := by
  rw [State.idxAppend_idx, Memory.read_writeBytes, entryBytes_length]
  split
  next hin => rw [List.getElem?_eq_getElem (by rw [entryBytes_length]; omega)]; simp; omega
  next hout => rw [h]; omega

/-! ## What is in hand -/

/-- READ_HEADER takes in the header it decodes: its bytes are the stream's (R92 to R95). -/
theorem acceptHeader_inHand {bs : List Byte} {hd : Header} (hb : s.windowBytes = some bs)
    (hp : parseHeader bs = .ok hd) :
    ((s.loadWindow bs).acceptHeader hd).HeaderInHand ∧
    ((s.loadWindow bs).acceptHeader hd).cursor.toNat = s.cursor.toNat + hd.headerSize.toNat := by
  have hlen := windowBytes_length hb
  have hsize := parse_ok_length hp
  have hL : s.len < 2 ^ 64 := s.cfg.streamLen.isLt
  have hwin : (Window.ofBytes bs).toList = bs ++ List.replicate (12 - bs.length) 0 := ofBytes_toList bs (by omega)
  refine ⟨⟨?_, ?_, rfl⟩, u64_toNat (n := s.cursor.toNat + hd.headerSize.toNat) (by omega)⟩
  · show s.stream.readSpan s.cursor.toNat hd.headerSize.toNat =
      some ((Window.ofBytes bs).toList.take hd.headerSize.toNat)
    rw [hwin, List.take_append_of_le_length hsize]
    exact Memory.readSpan_take hb (by rw [Config.hdrWindow]; omega)
  · show parseHeader (Window.ofBytes bs).toList = .ok hd
    rw [hwin]
    exact parse_append hp _

/-- READ_PAYLOAD takes in the `data_size` bytes after the header (R117, R145). -/
theorem payloadRead_inHand {bs : List Byte} (hcur : s.cursor.toNat = s.hdrStart.toNat + s.h.headerSize.toNat)
    (hlen : s.cursor.toNat ≤ s.len) (hr : ¬ s.rem < s.h.dataSize.toNat) (hb : s.payloadBytes = some bs) :
    (s.payloadRead bs).PayloadInHand := by
  have hL : s.len < 2 ^ 64 := s.cfg.streamLen.isLt
  rw [State.rem] at hr
  refine ⟨hcur, u64_toNat (n := s.cursor.toNat + s.h.dataSize.toNat) (by omega), hb, ?_⟩
  show s.h.dataSize.toNat ≤ s.growPbuf.pbufCap.toNat
  rw [State.growPbuf_pbufCap]
  split <;> omega

namespace State.BlockMove

/-! ## Each part of the invariant after a move -/

/-- Out of a scan the block waits (R110, R121). -/
theorem eq_of_quiet (h : s.BlockMove t) (hb : s.busy = false) : t = s := by
  cases h
  case waits => rfl
  all_goals exact absurd hb (by rw [State.busy, ‹s.state = _›]; nofun)

/-- The block leaves its inputs alone (R40, R53). -/
theorem sameInputs (h : s.BlockMove t) : s.SameInputs t := by
  cases h
  case indexed => rw [emitted_frame]; exact ⟨rfl, rfl, rfl, rfl⟩
  all_goals exact ⟨rfl, rfl, rfl, rfl⟩

/-- A scan that runs raises an error just when it enters FATAL (R151, R125 item 7). -/
theorem error_iff (h : s.BlockMove t) (hb : s.busy = true) (he : s.errCode = .none) :
    t.errCode ≠ .none ↔ t.state = .fatal := by
  have kept (h1 : t.errCode = s.errCode) (h2 : t.state ≠ .fatal) : t.errCode ≠ .none ↔ t.state = .fatal :=
    iff_of_false (fun hc => hc (h1.trans he)) h2
  cases h
  case waits hs => exact absurd (busy_eq_false_iff.2 hs) (by rw [hb]; nofun)
  case noSync | badSync | badSize | overCap | indexFull => exact iff_of_true nofun rfl
  case indexed =>
    exact kept (by rw [emitted_frame]) (emitted_not_fatal s.h.id)
  all_goals exact kept rfl nofun

/-- The log only grows (R158). -/
theorem log_prefix (h : s.BlockMove t) : s.log <+: t.log := by
  cases h
  case headerShort | headerFailed | payloadShort | payloadFailed | overCap | noCandidate => exact List.prefix_append _ _
  case indexed =>
    rw [emitted_frame]
    dsimp only
    split
    · exact List.prefix_rfl
    · exact List.prefix_append _ _
  all_goals exact List.prefix_rfl

/-- Past the cap a payload mismatch is fatal, and a header mismatch is in the log (R118, R125 item 4). -/
theorem failures_le_cap (h : s.BlockMove t) (hf : t.state ≠ .fatal) (hl : ∀ e ∈ t.log, e.1 ≠ .hdrCksum)
    (hcap : s.checksumFailures.toNat ≤ Config.failCap) : t.checksumFailures.toNat ≤ Config.failCap := by
  cases h
  case headerFailed => exact absurd rfl (hl (.hdrCksum, s.hdrStart) (by simp))
  case payloadFailed hc => exact Nat.not_lt.1 hc
  case overCap => exact absurd rfl hf
  case indexed => rw [emitted_frame]; exact hcap
  all_goals exact hcap

/-- With checksums ignored no move counts a failure (R122). -/
theorem failures_of_ignored (h : s.BlockMove t) (hi : s.cfg.ignoreChecksums = true) :
    t.checksumFailures = s.checksumFailures := by
  have matched {c d : U16} : s.mismatch c d = false := mismatch_eq_false.2 (.inl hi)
  cases h
  case headerFailed hm => exact absurd hm (by rw [matched]; nofun)
  case payloadFailed hm _ => exact absurd hm (by rw [matched]; nofun)
  case overCap hm _ => exact absurd hm (by rw [matched]; nofun)
  case indexed => rw [emitted_frame]
  all_goals rfl

/-- The entries' part of the stream never shrinks (R120). -/
theorem indexedUpTo_le (h : s.BlockMove t) (hscan : s.ScanInv) : s.indexedUpTo ≤ t.indexedUpTo := by
  have hhdr := hscan.headerBehindCursor
  have hcur : s.indexedUpTo ≤ t.cursor.toNat :=
    (State.indexedUpTo_le_cursor hhdr).trans (h.cursor_le hscan.cursorInStream hhdr).1
  cases h
  case waits => exact Nat.le_refl _
  case headerRead => exact State.indexedUpTo_le_cursor hhdr
  case headerPassed hs _ | headerFailed hs _ | payloadRead hs _ _ | payloadPassed hs _ _ | payloadFailed hs _ _ _ =>
    rw [State.indexedUpTo, hs]; exact Nat.le_refl _
  case indexed => rw [emitted_indexedUpTo]; rwa [emitted_frame] at hcur
  all_goals exact hcur

/-- The entries stay in stream order, EMIT's new one last (R125 items 2 and 3). -/
theorem indexInOrder (h : s.BlockMove t) (hscan : s.ScanInv) : t.IndexInOrder t.indexedUpTo := by
  have hle := h.indexedUpTo_le hscan
  cases h
  case indexed hs hc =>
    obtain ⟨hhdr, hpay⟩ := hscan.payload (.inr (.inl hs))
    obtain ⟨hlow, hhigh⟩ := State.entryOffset_bounds hhdr hpay
    have hb : s.indexedUpTo = s.hdrStart.toNat := by rw [State.indexedUpTo, hs]
    rw [emitted_indexedUpTo]
    refine (hscan.index.append hc (hb ▸ hlow) hhigh).congr (emitted_idx s s.h.id) ?_ ?_ (Nat.le_refl _)
    · rw [emitted_count]; rfl
    · rw [emitted_frame]; rfl
  all_goals exact hscan.index.congr rfl rfl rfl hle

/-- A scan that goes on is below the record-count bound (R120). -/
theorem below_bound (h : s.BlockMove t) (ht : t.busy = true)
    (hbound : s.cfg.toArg ≠ 0 → s.count.toNat < s.cfg.toArg.toNat) (hto : t.cfg.toArg ≠ 0) :
    t.count.toNat < t.cfg.toArg.toNat := by
  cases h
  case indexed hc =>
    have hgo := emitted_goesOn hc (state_of_emitted_busy ht)
    rw [emitted_frame] at hto ⊢
    have := hgo.1 hto
    have := hbound hto
    show (u64 (s.count.toNat + 1)).toNat < s.cfg.toArg.toNat
    rw [u64_toNat (by omega)]
    omega
  all_goals exact hbound hto

/-- READ_HEADER is entered only with a byte left to read (R91, R125). -/
theorem byte_left (h : s.BlockMove t) (hb : s.busy = true) (hscan : s.ScanInv) (ht : t.state = .readHeader) :
    t.cursor.toNat < t.len := by
  have hL : s.len < 2 ^ 64 := s.cfg.streamLen.isLt
  have hlen := hscan.cursorInStream
  cases h
  case waits hs => exact absurd (busy_eq_false_iff.2 hs) (by rw [hb]; nofun)
  case syncFound p _ hf =>
    have hspec := findSync_spec s.stream s.rem s.cursor.toNat
    rw [hf] at hspec
    obtain ⟨-, hlt, -, -⟩ := hspec
    rw [State.rem] at hlt
    show (u64 p).toNat < s.len
    rw [u64_toNat (by omega)]
    omega
  case candidateFound p _ hf =>
    have hspec := findCandidate_spec s (s.len - s.cursor.toNat) s.cursor.toNat (by omega)
    rw [hf] at hspec
    obtain ⟨-, ⟨hlt, -⟩, -⟩ := hspec
    show (u64 p).toNat < s.len
    rw [u64_toNat (by omega)]
    omega
  case indexed hc =>
    have hne : s.cursor.toNat ≠ s.len := fun heq => (emitted_goesOn hc ht).2 (BitVec.eq_of_toNat_eq heq)
    rw [emitted_frame]
    show s.cursor.toNat < s.len
    omega
  all_goals cases ht

/-- The header in hand after READ_HEADER and after its validation (R92, R95, R116). -/
theorem header_inHand (h : s.BlockMove t) (hb : s.busy = true) (hscan : s.ScanInv)
    (ht : t.state = .validateHeader ∨ t.state = .readPayload) :
    t.HeaderInHand ∧ t.cursor.toNat = t.hdrStart.toNat + t.h.headerSize.toNat := by
  cases h
  case waits hs => exact absurd (busy_eq_false_iff.2 hs) (by rw [hb]; nofun)
  case headerRead bs hd _ hbs hp => exact acceptHeader_inHand hbs hp
  case headerPassed hs _ | headerFailed hs _ =>
    exact (hscan.header (.inl hs)).imp_left fun hh => hh.congr rfl rfl rfl rfl rfl
  case indexed =>
    rcases emitted_state_cases s.h.id with hs | hs <;> exact absurd ht (by rw [hs]; nofun)
  all_goals exact ht.elim nofun nofun

/-- The payload in hand after READ_PAYLOAD and after its validation (R117, R118). -/
theorem payload_inHand (h : s.BlockMove t) (hb : s.busy = true) (hscan : s.ScanInv)
    (ht : t.state = .validatePayload ∨ t.state = .emit ∨ t.state = .resync) : t.HeaderInHand ∧ t.PayloadInHand := by
  cases h
  case waits hs => exact absurd (busy_eq_false_iff.2 hs) (by rw [hb]; nofun)
  case payloadRead bs hs hr hbs =>
    obtain ⟨hhdr, hcur⟩ := hscan.header (.inr hs)
    exact ⟨hhdr.congr rfl rfl rfl rfl rfl, payloadRead_inHand hcur hscan.cursorInStream hr hbs⟩
  case payloadPassed hs _ _ | payloadFailed hs _ _ _ =>
    exact (hscan.payload (.inl hs)).imp (fun hh => hh.congr rfl rfl rfl rfl rfl)
      fun hp => hp.congr rfl rfl rfl rfl rfl rfl rfl
  case indexed =>
    rcases emitted_state_cases s.h.id with hs | hs <;> exact absurd ht (by rw [hs]; nofun)
  all_goals exact ht.elim nofun fun ht => ht.elim nofun nofun

/-- RESYNC is entered only from a payload mismatch that was counted and stayed within the cap (R118, R122). -/
theorem resync_counted (h : s.BlockMove t) (hb : s.busy = true) (ht : t.state = .resync) :
    t.cfg.ignoreChecksums = false ∧ 1 ≤ t.checksumFailures.toNat ∧ t.checksumFailures.toNat ≤ Config.failCap := by
  cases h
  case waits hs => exact absurd (busy_eq_false_iff.2 hs) (by rw [hb]; nofun)
  case payloadFailed hm hc =>
    obtain ⟨hi, -⟩ := mismatch_eq_true.1 hm
    refine ⟨hi, ?_, Nat.not_lt.1 hc⟩
    show 1 ≤ (satInc32 s.checksumFailures).toNat
    rw [satInc32_toNat]
    omega
  case indexed =>
    rcases emitted_state_cases s.h.id with hs | hs <;> cases hs.symm.trans ht
  all_goals cases ht

/-- No move begins a scan or goes back to IDLE (R111, R12). -/
theorem not_begun (h : s.BlockMove t) (hb : s.busy = true) : t.state ≠ .idle ∧ t.state ≠ .seekingSync := by
  cases h
  case waits hs => exact absurd (busy_eq_false_iff.2 hs) (by rw [hb]; nofun)
  case indexed =>
    rcases emitted_state_cases s.h.id with hs | hs <;> rw [hs] <;> exact ⟨nofun, nofun⟩
  all_goals exact ⟨nofun, nofun⟩

/-! ## The invariant after a move -/

/-- A move that leaves the scan running keeps what holds while it runs (R12, R122, R125). -/
theorem scanInv (h : s.BlockMove t) (hb : s.busy = true) (hscan : s.ScanInv) (ht : t.busy = true) : t.ScanInv := by
  obtain ⟨-, -, -, hcfg⟩ := h.sameInputs
  have hlen : t.len = s.len := by rw [State.len, hcfg, State.len]
  obtain ⟨-, hcur, hhdr⟩ := h.cursor_le hscan.cursorInStream hscan.headerBehindCursor
  exact {
    cursorInStream := hlen ▸ hcur
    headerBehindCursor := hhdr
    ignored := fun hi => by
      rw [hcfg] at hi
      rw [h.failures_of_ignored hi, hscan.ignored hi]
    bound := h.below_bound ht hscan.bound
    index := h.indexInOrder hscan
    seeking := fun hs => absurd hs (h.not_begun hb).2
    reading := h.byte_left hb hscan
    header := h.header_inHand hb hscan
    payload := h.payload_inHand hb hscan
    resyncing := h.resync_counted hb }

/-- The index memory and its counters after a move: as before, or with the one entry that EMIT appended (R140, R142). -/
theorem indexForm (h : s.BlockMove t) (hinv : s.Inv) :
    t.idx.wf ∧ (∀ a, (t.idx.read a).isSome = true ↔ a < 16 * t.count.toNat) ∧
    t.count.toNat ≤ t.params.indexMax.toNat ∧ 1 ≤ t.idxCap.toNat ∧ t.count.toNat ≤ t.idxCap.toNat := by
  cases h
  case indexed hc =>
    have hidx := emitted_idx s s.h.id
    have hcount : (s.classified s.h.id).stopOrGoOn.count.toNat = s.count.toNat + 1 := by
      rw [emitted_count, u64_toNat (by omega)]
    have hcap : (s.classified s.h.id).stopOrGoOn.idxCap = s.idxGrow.idxCap := by rw [emitted_frame]
    have hparams : (s.classified s.h.id).stopOrGoOn.params = s.params := by rw [emitted_frame]
    have hroom := State.idxGrow_room hinv.capPositive hinv.countCap hc
    rw [hidx, hcount, hcap, hparams]
    exact ⟨idxAppend_wf hinv.idxForm _ _ _ _, idxAppend_cells hinv.idxCells _ _ _ _, hc, by omega, hroom⟩
  all_goals exact ⟨hinv.idxForm, hinv.idxCells, hinv.countMax, hinv.capPositive, hinv.countCap⟩

/-- Every move keeps the invariant (R125, R140, R12, R122). -/
theorem inv (h : s.BlockMove t) (hinv : s.Inv) : t.Inv := by
  cases hb : s.busy
  case false => rwa [h.eq_of_quiet hb]
  obtain ⟨herr, heof⟩ := hinv.running hb
  obtain ⟨hparams, -, hstream, -⟩ := h.sameInputs
  obtain ⟨hform, hcells, hmax, hpos, hcap⟩ := h.indexForm hinv
  have hfatal : s.state ≠ .fatal := fun hf => hinv.error.2 hf herr
  exact {
    streamForm := hstream ▸ hinv.streamForm
    idxForm := hform
    params := hparams ▸ hinv.params
    error := h.error_iff hb herr
    eof := fun ht => h.earlyEof_cases.elim (fun he => by rw [he, heof] at ht; cases ht) fun he => he.2.1
    cap := fun hf hl => h.failures_le_cap hf hl <| hinv.cap hfatal fun e he => hl e (h.log_prefix.subset he)
    idxCells := hcells
    countMax := hmax
    capPositive := hpos
    countCap := hcap
    idle := fun ht => absurd ht (h.not_begun hb).1
    scan := h.scanInv hb (hinv.scan hb) }

end State.BlockMove

/-! ## The host's moves -/

/-- A state with nothing scanned yet meets the invariant when what runs in it does (R111, R170). -/
theorem State.Inv.of_fresh (hstream : s.stream.wf) (hparams : s.params.Admissible) (hidx : s.idx = [])
    (hcount : s.count = 0) (hcap : s.idxCap = s.params.indexCap0) (hcursor : s.cursor = 0)
    (hfail : s.checksumFailures = 0) (heof : s.earlyEof = false) (herr : s.errCode ≠ .none ↔ s.state = .fatal)
    (hscan : s.busy = true → s.ScanInv) : s.Inv where
  streamForm := hstream
  idxForm := hidx ▸ List.Pairwise.nil
  params := hparams
  error := herr
  eof := fun h => by rw [heof] at h; cases h
  cap := fun _ _ => hfail ▸ Nat.zero_le _
  idxCells := fun a => by rw [hidx, hcount]; simp [Memory.read]
  countMax := hcount ▸ Nat.zero_le _
  capPositive := hcap ▸ hparams
  countCap := hcount ▸ Nat.zero_le _
  idle := fun _ => ⟨hcursor, hcount⟩
  scan := hscan

/-- Reset meets the invariant (R170). -/
theorem resetWith_inv {p : Config.Params} (hp : p.Admissible) : (State.resetWith p).Inv :=
  State.Inv.of_fresh List.Pairwise.nil hp rfl rfl rfl rfl rfl rfl (iff_of_false (· rfl) nofun) nofun

/-- A scan that begins (R111). -/
theorem seekingSync_scanInv (s : State) : State.ScanInv { s.beginScan with state := .seekingSync } where
  cursorInStream := Nat.zero_le _
  headerBehindCursor := Nat.zero_le _
  ignored := fun _ => rfl
  bound := fun hto => Nat.pos_of_ne_zero fun h0 => hto (BitVec.eq_of_toNat_eq h0)
  index := ⟨fun _ hi => absurd hi (Nat.not_lt_zero _), fun _ _ _ hi => absurd hi (Nat.not_lt_zero _)⟩
  seeking := fun _ => ⟨rfl, rfl⟩
  reading := nofun
  header := fun h => h.elim nofun nofun
  payload := fun h => h.elim nofun fun h => h.elim nofun nofun
  resyncing := nofun

/-- START keeps the invariant (R111, R172). -/
theorem execStart_inv (hinv : s.Inv) (h : execStart s = .next t) : t.Inv := by
  obtain ⟨-, rfl⟩ | ⟨-, -, rfl⟩ | ⟨-, -, rfl⟩ := execStart_next h
  · exact hinv
  · exact State.Inv.of_fresh hinv.streamForm hinv.params rfl rfl rfl rfl rfl rfl (iff_of_false (· rfl) nofun)
      fun _ => seekingSync_scanInv s
  · exact State.Inv.of_fresh hinv.streamForm hinv.params rfl rfl rfl rfl rfl rfl (iff_of_true nofun rfl) nofun

/-- Out of a scan the invariant says nothing about the configuration, and of the stream space only its form (R40, R52). -/
theorem State.Inv.withInputs (h : s.Inv) (hb : s.busy = false) (c : Cfg) {m : Memory} (hm : m.wf) :
    State.Inv { s with cfg := c, stream := m } :=
  { streamForm := hm, idxForm := h.idxForm, params := h.params, error := h.error, eof := h.eof, cap := h.cap,
    idxCells := h.idxCells, countMax := h.countMax, capPositive := h.capPositive, countCap := h.countCap,
    idle := h.idle, scan := fun hrun => absurd (hb.symm.trans hrun) nofun }

/-! ## The statements -/

/-- Settles O46: `resetWith_inv`. -/
theorem resetMeetsTheInvariant : Obligations.ResetMeetsTheInvariant := fun _ => resetWith_inv

/-- Settles O47: each move of the block, START, reset, and each access of the host. -/
theorem stepKeepsInv : Obligations.StepKeepsInv := by
  intro s t hinv h
  have hkept (rest : List HostAccess) : State.Inv { s with host := rest } := hinv.withHost rest s.hostData
  obtain ⟨rest, h⟩ | ⟨rest, h⟩ | ⟨rest, rfl⟩ | ⟨rest, o, v, rfl⟩ | ⟨rest, v, rfl⟩ | ⟨rest, a, v, hb, rfl⟩ := step_next h
  · exact (operation_blockMove (s := { s with host := rest }) h).inv (hkept rest)
  · exact execStart_inv (hkept rest) h
  · exact (resetWith_inv hinv.params).withHost rest s.hostData
  · obtain he | ⟨hb, c, he⟩ := busWrite_eq { s with host := rest } o v <;> rw [he]
    · exact hkept rest
    · exact (hkept rest).withInputs hb c hinv.streamForm
  · exact hinv.withHost rest v
  · exact (hkept rest).withInputs hb s.cfg (Memory.wf_write hinv.streamForm a v)

/-- Settles O48: the index is in order up to a point at or before the cursor, and the cursor is in the stream. -/
theorem scanKeepsIndexInOrder : Obligations.ScanKeepsIndexInOrder := by
  intro s t hinv hbusy hnext h
  obtain ⟨rest, hm⟩ := step_blockMove hnext h
  have hscan := (hinv.scan hbusy).host rest s.hostData
  obtain ⟨-, -, -, hcfg⟩ := hm.sameInputs
  have hlen : t.len = s.len := by rw [State.len, hcfg, State.len]
  obtain ⟨-, hcur, hhdr⟩ := hm.cursor_le hscan.cursorInStream hscan.headerBehindCursor
  have hup : t.indexedUpTo ≤ t.len := hlen ▸ (State.indexedUpTo_le_cursor hhdr).trans hcur
  refine ⟨hlen ▸ hcur, (hm.indexInOrder hscan).congr rfl rfl rfl hup, fun hi => ?_⟩
  rw [hcfg] at hi
  exact (hm.failures_of_ignored hi).trans (hscan.ignored hi)

end Sys2Proof.Machine
end

section
/-! PROOFS. The scanner's states (spec/43_scanner.md R110 to R121), one operation at a time: what START begins, what each
state's operation answers, and the transitions a step of the block can take. -/

namespace Sys2Proof.Machine

variable {s t : State}

/-! ## The step that runs the state's operation -/

theorem step_pass {rest : List HostAccess} (h : s.host = .pass :: rest) :
    step s = exec (operationOf s.state) { s with host := rest } := by
  simp only [step, State.fetch, h]

/-- Settles O1: the state's code decodes to its operation, which both fetches select. -/
theorem stepRunsSelectedOperation : Obligations.StepRunsSelectedOperation := by
  intro s i hi
  cases (decodeState_code s.state).symm.trans hi
  exact ⟨step_block, fun _ => step_pass⟩

/-- Settles O25: the three rows by definition, the step as the operation of its state. -/
theorem terminalStatesTakeNoStep : Obligations.TerminalStatesTakeNoStep := by
  refine fun s => ⟨rfl, rfl, rfl, fun hhost hs => ?_⟩
  rw [step_block hhost]
  rcases hs with hs | hs | hs <;> rw [hs] <;> rfl

/-! ## START -/

theorem execStart_busy (h : s.busy = true) : execStart s = .next s := if_pos h

/-- START out of a scan, with a stream (R111). -/
theorem execStart_present (h : s.busy = false) (hp : s.cfg.streamPresent = true) :
    execStart s = .next { s.beginScan with state := .seekingSync } := by
  simp only [execStart, h, hp, Bool.false_eq_true, if_false, if_true]

/-- START out of a scan, without a stream (R111, R150). -/
theorem execStart_absent (h : s.busy = false) (hp : s.cfg.streamPresent = false) :
    execStart s = .next (s.beginScan.raiseFatal .cannotOpen 0) := by
  simp only [execStart, h, hp, Bool.false_eq_true, if_false, execEOpen]

/-- Settles O11: codes 1 to 7 are the busy states; otherwise the scan begins by whether there is a stream. -/
theorem startBeginsAFreshScan : Obligations.StartBeginsAFreshScan := by
  refine fun s => ⟨fun hge hle => execStart_busy (by rw [busy_eq]; exact decide_eq_true ⟨hge, hle⟩), fun hs => ?_⟩
  have hb : s.busy = false := busy_eq_false_iff.2 hs
  exact ⟨execStart_present hb, execStart_absent hb⟩

/-! ## SEEKING_SYNC -/

/-- The initial search over a loaded stream: the least sync byte, or E_NO_SYNC (R114). -/
theorem execSeekingSync_first (hl : s.StreamLoaded) (hc : s.cursor.toNat ≤ s.len) :
    (∀ p, s.cursor.toNat ≤ p → p < s.len → s.stream.read p = some Config.sync →
      (∀ a, s.cursor.toNat ≤ a → a < p → s.stream.read a ≠ some Config.sync) →
      execSeekingSync s = .next { s with cursor := u64 p, state := .readHeader }) ∧
    ((∀ a, s.cursor.toNat ≤ a → a < s.len → s.stream.read a ≠ some Config.sync) →
      execSeekingSync s = .next (State.raiseFatal { s with cursor := s.cfg.streamLen } .noSync s.cfg.streamLen)) := by
  have hspec := findSync_spec s.stream s.rem s.cursor.toNat
  have hend : s.cursor.toNat + s.rem = s.len := by rw [State.rem]; omega
  rw [hend] at hspec
  rw [execSeekingSync]
  cases hf : findSync s.stream s.rem s.cursor.toNat <;> rw [hf] at hspec
  case found q =>
    obtain ⟨hge, hlt, hsync, hfirst⟩ := hspec
    refine ⟨fun p hp _ hps hpf => ?_, fun hnone => absurd hsync (hnone q hge hlt)⟩
    rcases Nat.lt_trichotomy q p with h | rfl | h
    · exact absurd hsync (hpf q hge h)
    · rfl
    · exact absurd hps (hfirst p hp h)
  case endOfStream => exact ⟨fun p hp hlt hps _ => absurd hps (hspec p hp hlt), fun _ => rfl⟩
  case absent =>
    obtain ⟨a, -, hlt, hnone⟩ := hspec
    have := hl a hlt
    simp [hnone] at this

/-- Settles O13: `execSeekingSync_first`. -/
theorem seekingSyncFindsFirstSyncByte : Obligations.SeekingSyncFindsFirstSyncByte :=
  fun _ hl hc => execSeekingSync_first hl hc

/-! ## The validations and the payload -/

theorem execValidateHeader_matched (h : s.cfg.ignoreChecksums = true ∨ cksum s.headerSpan = s.h.headerChecksum) :
    execValidateHeader s = .next s.headerChecked := by
  rw [execValidateHeader_eq, mismatch_eq_false.2 h]
  rfl

theorem execValidateHeader_mismatched (hi : s.cfg.ignoreChecksums = false)
    (hne : cksum s.headerSpan ≠ s.h.headerChecksum) :
    execValidateHeader s = .next { s.headerChecked with
      checksumFailures := satInc32 s.checksumFailures, log := s.log ++ [(.hdrCksum, s.hdrStart)] } := by
  rw [execValidateHeader_eq, mismatch_eq_true.2 ⟨hi, hne⟩]
  rfl

theorem execReadPayload_complete {bs : List Byte} (hfits : s.h.dataSize.toNat ≤ s.rem)
    (hbs : s.payloadBytes = some bs) : execReadPayload s = .next (s.payloadRead bs) := by
  rw [execReadPayload_eq, if_neg (Nat.not_lt.2 hfits), hbs]

theorem execValidatePayload_matched {span : List Byte} (hs : s.payloadSpan = some span)
    (h : s.cfg.ignoreChecksums = true ∨ cksum span = s.h.dataChecksum) :
    execValidatePayload s = .next { s.payloadChecked (cksum span) with state := .emit } := by
  rw [execValidatePayload_eq hs, mismatch_eq_false.2 h]
  rfl

theorem execValidatePayload_mismatched {span : List Byte} (hs : s.payloadSpan = some span)
    (hi : s.cfg.ignoreChecksums = false) (hne : cksum span ≠ s.h.dataChecksum) :
    execValidatePayload s = .next (if 100 < (satInc32 s.checksumFailures).toNat then
        (s.payloadFailed (cksum span)).raiseFatal .cksumCap s.hdrStart
      else { s.payloadFailed (cksum span) with state := .resync }) := by
  rw [execValidatePayload_eq hs, mismatch_eq_true.2 ⟨hi, hne⟩]
  rfl

/-- Settles O18: the two outcomes of the mismatch test. -/
theorem validateHeaderIsLenient : Obligations.ValidateHeaderIsLenient :=
  fun _ => ⟨execValidateHeader_matched, execValidateHeader_mismatched⟩

/-- Settles O19: the two outcomes of the test for `data_size` bytes left. -/
theorem readPayloadReadsOrEndsEarly : Obligations.ReadPayloadReadsOrEndsEarly :=
  fun s => ⟨fun hshort => (execReadPayload_eq s).trans (if_pos hshort), fun _ => execReadPayload_complete⟩

/-- Settles O20: the two outcomes of the mismatch test, and of the cap test after a mismatch. -/
theorem validatePayloadCountsAndCaps : Obligations.ValidatePayloadCountsAndCaps := by
  intro s hlen
  have hspan : s.payloadSpan = some (s.pbuf.take s.h.dataSize.toNat) := if_pos hlen
  refine ⟨execValidatePayload_matched hspan, fun hi hne => ?_⟩
  have hexec := execValidatePayload_mismatched hspan hi hne
  rw [satInc32_toNat] at hexec
  refine ⟨fun hover => ?_, fun hwithin => ?_⟩
  · rw [if_pos hover] at hexec
    exact hexec
  · rw [if_neg (Nat.not_lt.2 hwithin)] at hexec
    exact hexec

/-! ## EMIT -/

/-- Settles O5: the identifier's row is its classification, and the stop test comes after it. -/
theorem emitRunsIdentifierRow : Obligations.EmitRunsIdentifierRow := by
  intro s hne
  rw [exec_decodeId]
  refine (if_neg hne).trans ?_
  cases s.classify s.h.id with
  | next t => exact congrArg Host.Outcome.next (stopOrGoOn_eq t)
  | fault r => rfl
  | refused r => rfl

/-- Settles O23: with room, EMIT is the classified append and the stop test. -/
theorem emitAppendsTheRecord : Obligations.EmitAppendsTheRecord := by
  intro s off isKnown
  rw [show isKnown = known s.h.id from (known_iff s.h.id).symm]
  refine ⟨fun hfull => if_pos hfull, fun hc => ⟨(s.classified s.h.id).stopOrGoOn, execEmit_eq hc, ?_⟩⟩
  have hcount : (u64 (s.count.toNat + 1)).toNat = s.count.toNat + 1 := u64_toNat (by omega)
  refine ⟨?_, ?_, ?_, ?_, ?_, ?_, ?_⟩
  · rw [emitted_frame]
  · rw [emitted_count, hcount]
  · rw [emitted_frame]; rfl
  · rw [emitted_idx]; exact State.idxAppend_written s _ _ _ _
  · rw [State.entryAt_congr (emitted_idx s s.h.id)]; exact State.idxAppend_entryAt_new s _ _ _ _
  · rw [emitted_frame]
  · rw [emitted_state hc, emitted_count, hcount]

/-! ## The transitions -/

/-- Settles O39: every move of the block, its state before and after. -/
theorem transitionsAreTheTable : Obligations.TransitionsAreTheTable := by
  intro s t hnext h
  obtain ⟨u, hu, hm⟩ : ∃ u : State, u.state = s.state ∧ u.BlockMove t :=
    (step_blockMove hnext h).elim fun rest hm => ⟨{ s with host := rest }, rfl, hm⟩
  rw [← hu]
  cases hm
  case waits hs => rcases hs with hs | hs | hs <;> rw [hs] <;> decide
  case indexed hs _ =>
    rw [hs]
    rcases emitted_state_cases (s := u) u.h.id with ht | ht <;> rw [ht] <;> decide
  all_goals
    rw [‹u.state = _›]
    exact of_decide_eq_true rfl

/-! ## Ignored checksums -/

/-- With checksums ignored no move raises E_CKSUM_CAP (R122). -/
theorem State.BlockMove.errCode_of_ignored (h : s.BlockMove t) (hi : s.cfg.ignoreChecksums = true)
    (ht : t.errCode = .cksumCap) : s.errCode = .cksumCap := by
  cases h
  case noSync | badSync | badSize | indexFull => cases ht
  case overCap hm _ => exact absurd hi (by rw [(mismatch_eq_true.1 hm).1]; nofun)
  case indexed => rwa [emitted_frame] at ht
  all_goals exact ht

/-- With checksums ignored no move enters RESYNC (R122). -/
theorem State.BlockMove.resync_of_ignored (h : s.BlockMove t) (hi : s.cfg.ignoreChecksums = true)
    (ht : t.state = .resync) : s.state = .resync := by
  cases hb : s.busy
  case false => rwa [h.eq_of_quiet hb] at ht
  obtain ⟨hoff, -⟩ := h.resync_counted hb ht
  rw [h.sameInputs.cfg, hi] at hoff
  cases hoff

/-- Settles O44: an ignored mismatch is a match, in each of the two validations. -/
theorem ignoredChecksumsNeverFail : Obligations.IgnoredChecksumsNeverFail := by
  intro s t hi hnext h
  obtain ⟨rest, hm⟩ := step_blockMove hnext h
  obtain ⟨rest', he⟩ := step_blockNext hnext
  rw [h] at he
  refine ⟨hm.failures_of_ignored hi, hm.resync_of_ignored hi, hm.errCode_of_ignored hi, fun hs => ?_, fun hs => ?_⟩
  · rw [hs] at he
    cases he.trans (execValidateHeader_matched (.inl hi))
    exact ⟨rfl, rfl⟩
  · rw [hs] at he
    obtain ⟨span, hspan, -⟩ := execValidatePayload_next he.symm
    cases he.trans (execValidatePayload_matched hspan (.inl hi))
    obtain ⟨-, rfl⟩ := payloadSpan_eq hspan
    exact ⟨rfl, rfl, rfl⟩

end Sys2Proof.Machine
end

section
/-! PROOFS. The arguments `from`, `by` and `debug_level` (spec/43_scanner.md R112, R162): no operation looks at them, so each
commutes with setting them to other values. -/

namespace Sys2Proof.Machine

/-- An operation answers the same whatever the unused arguments are, and leaves them as they are. -/
def IgnoresUnusedArgs (op : State → Out) : Prop :=
  ∀ (s : State) (fromArg byArg debugLevel : U32), op (s.withUnusedArgs fromArg byArg debugLevel) =
    mapNext (fun t => t.withUnusedArgs fromArg byArg debugLevel) (op s)

theorem execIdxAppend_ignores (off : U64) (len : U32) (id : Byte) (k : Bool) :
    IgnoresUnusedArgs (execIdxAppend off len id k) := by
  intro s a b d
  rw [execIdxAppend, execIdxAppend, apply_ite (mapNext _)]
  rfl

theorem readRecord_ignores (h : Header) : IgnoresUnusedArgs (·.readRecord h) := by
  intro s a b d
  show State.readRecord _ h = mapNext _ (s.readRecord h)
  rw [State.readRecord, State.readRecord, show (s.withUnusedArgs a b d).windowBytes = s.windowBytes from rfl]
  cases s.windowBytes with
  | none => rfl
  | some bs =>
    simp only [mapNext, State.finishHeader, apply_ite (fun t : State => t.withUnusedArgs a b d)]
    rfl

theorem execReadHeader_ignores : IgnoresUnusedArgs execReadHeader := by
  intro s a b d
  rw [execReadHeader, execReadHeader, show (s.withUnusedArgs a b d).windowBytes = s.windowBytes from rfl]
  cases s.windowBytes with
  | none => rfl
  | some bs =>
    dsimp only
    rcases parseHeader bs with (_ | _ | _) | h <;> rfl

theorem endSearch_ignores (r : Search) : IgnoresUnusedArgs (·.endSearch r) := fun s a b d => by cases r <;> rfl

theorem execSeekingSync_ignores : IgnoresUnusedArgs execSeekingSync := by
  intro s a b d
  rw [execSeekingSync, execSeekingSync, show findSync (s.withUnusedArgs a b d).stream (s.withUnusedArgs a b d).rem
    (s.withUnusedArgs a b d).cursor.toNat = findSync s.stream s.rem s.cursor.toNat from rfl]
  cases findSync s.stream s.rem s.cursor.toNat <;> rfl

theorem tryCandidate_ignores (family : Byte) : IgnoresUnusedArgs (·.tryCandidate family) := by
  intro s a b d
  show State.tryCandidate _ family = mapNext _ (s.tryCandidate family)
  rw [State.tryCandidate, State.tryCandidate, apply_ite (mapNext _)]
  exact if_congr Iff.rfl (endSearch_ignores _ s a b d) (endSearch_ignores _ s a b d)

theorem execValidateHeader_ignores : IgnoresUnusedArgs execValidateHeader := by
  intro s a b d
  rw [execValidateHeader_eq, execValidateHeader_eq]
  simp only [mapNext, apply_ite (fun t : State => t.withUnusedArgs a b d)]
  rfl

theorem execReadPayload_ignores : IgnoresUnusedArgs execReadPayload := by
  intro s a b d
  rw [execReadPayload_eq, execReadPayload_eq, apply_ite (mapNext _),
    show (s.withUnusedArgs a b d).payloadBytes = s.payloadBytes from rfl]
  refine if_congr Iff.rfl rfl ?_
  cases s.payloadBytes <;> rfl

theorem execValidatePayload_ignores : IgnoresUnusedArgs execValidatePayload := by
  intro s a b d
  have hargs : (s.withUnusedArgs a b d).payloadSpan = s.payloadSpan := rfl
  cases hs : s.payloadSpan with
  | none => rw [execValidatePayload, execValidatePayload, hargs, hs]; rfl
  | some span =>
    rw [execValidatePayload_eq hs, execValidatePayload_eq (hargs.trans hs)]
    simp only [mapNext, apply_ite (fun t : State => t.withUnusedArgs a b d)]
    rfl

theorem indexKnown_ignores (id : Byte) : IgnoresUnusedArgs (·.indexKnown id) :=
  fun s => execIdxAppend_ignores s.entryOffset s.h.dataSize id true s

theorem indexUnknown_ignores (id : Byte) : IgnoresUnusedArgs (·.indexUnknown id) := by
  intro s a b d
  have happend : (s.withUnusedArgs a b d).appendRecord id false = mapNext _ (s.appendRecord id false) :=
    execIdxAppend_ignores s.entryOffset s.h.dataSize id false s a b d
  show State.indexUnknown _ id = mapNext _ (s.indexUnknown id)
  rw [State.indexUnknown, State.indexUnknown, happend]
  cases s.appendRecord id false <;> rfl

theorem classify_ignores (id : Byte) : IgnoresUnusedArgs (·.classify id) := by
  intro s a b d
  show State.classify _ id = mapNext _ (s.classify id)
  rw [State.classify, State.classify]
  split
  · exact indexKnown_ignores id s a b d
  · exact indexUnknown_ignores id s a b d

theorem execEmit_ignores : IgnoresUnusedArgs execEmit := by
  intro s a b d
  have hclassify : (s.withUnusedArgs a b d).classify (s.withUnusedArgs a b d).h.id = mapNext _ (s.classify s.h.id) :=
    classify_ignores s.h.id s a b d
  rw [execEmit, execEmit, hclassify, apply_ite (mapNext _)]
  refine if_congr Iff.rfl rfl ?_
  cases s.classify s.h.id <;> rfl

theorem execStart_ignores : IgnoresUnusedArgs execStart := by
  intro s a b d
  rw [execStart, execStart, apply_ite (mapNext _), apply_ite (mapNext _)]
  rfl

/-- Settles O45: every row but SOFT_RESET, operation by operation. -/
theorem unusedArgumentsMakeNoDifference : Obligations.UnusedArgumentsMakeNoDifference := by
  intro i s a b d hi
  cases i
  case rec10 | rec12 => exact readRecord_ignores _ s a b d
  case resyncCandidate10 | resyncCandidate12 => exact tryCandidate_ignores _ s a b d
  case id21 | id22 | id23 | id24 | id26 | id27 | id28 | id29 | id30 | id31 | id160 => exact indexKnown_ignores _ s a b d
  case idUnknown => exact indexUnknown_ignores _ s a b d
  case seekingSync => exact execSeekingSync_ignores s a b d
  case readHeader => exact execReadHeader_ignores s a b d
  case validateHeader => exact execValidateHeader_ignores s a b d
  case readPayload => exact execReadPayload_ignores s a b d
  case validatePayload => exact execValidatePayload_ignores s a b d
  case emit => exact execEmit_ignores s a b d
  case resync => exact endSearch_ignores _ s a b d
  case idxAppend => exact execIdxAppend_ignores _ _ _ _ s a b d
  case start => exact execStart_ignores s a b d
  case softReset => exact absurd rfl hi
  case idle | done | fatal | cksum | pbufGrow | eOpen | eNoSync | eBadSync | eHdrSize | eCksumCap | eIndexFull => rfl

end Sys2Proof.Machine
end

section
/-! PROOFS. Termination (spec/43_scanner.md R124): a step of a running scan lowers the measure `State.stepsLeft`, and a state
that the invariant holds of always answers one. -/

namespace Sys2Proof.Machine

variable {s t : State}

/-! ## The measure -/

/-- The steps a state has still to take of the record in hand, or of a search. -/
def pendingSteps : ScanState → Nat
  | .idle | .readHeader | .done | .fatal => 0
  | .seekingSync | .emit | .resync => 1
  | .validatePayload => 2
  | .readPayload => 3
  | .validateHeader => 4

/-- The measure of a running scan: five steps for each record the rest of the stream has room for, and those pending. -/
theorem stepsLeft_running (hb : s.busy = true) : s.stepsLeft = 5 * ((s.rem + 9) / 10) + pendingSteps s.state := by
  rw [State.busy] at hb
  rw [State.stepsLeft]
  revert hb
  cases s.state <;> simp [pendingSteps]

theorem stepsLeft_terminal (h : s.Terminal) : s.stepsLeft = 0 := by
  rw [State.stepsLeft]
  rcases h with hs | hs <;> rw [hs]

/-- A running scan has a step left: a search, a record in hand, or a byte to read. -/
theorem stepsLeft_pos (hb : s.busy = true) (hscan : s.ScanInv) : 0 < s.stepsLeft := by
  rw [stepsLeft_running hb]
  by_cases hs : s.state = .readHeader
  · have := hscan.reading hs
    have : 0 < s.rem := by rw [State.rem]; omega
    omega
  · have : 0 < pendingSteps s.state := by
      rw [State.busy] at hb
      revert hb hs
      cases s.state <;> simp [pendingSteps]
    omega

/-- A step that brings the record in hand on, the cursor not moving back, lowers the measure. -/
theorem stepsLeft_lt_of_pending (hs : s.busy = true) (ht : t.busy = true) (hrem : t.rem ≤ s.rem)
    (hlt : pendingSteps t.state < pendingSteps s.state) : t.stepsLeft < s.stepsLeft := by
  rw [stepsLeft_running hs, stepsLeft_running ht]
  omega

namespace State.BlockMove

/-- The rest of the stream never grows (R12). -/
theorem rem_le (h : s.BlockMove t) (hscan : s.ScanInv) : t.rem ≤ s.rem := by
  have hcur := (h.cursor_le hscan.cursorInStream hscan.headerBehindCursor).1
  rw [State.rem, State.rem, State.len, h.sameInputs.cfg, State.len]
  omega

/-- A running scan goes on or ends: no move leads back to IDLE (R113). -/
theorem running_or_terminal (h : s.BlockMove t) (hb : s.busy = true) : t.busy = true ∨ t.Terminal := by
  cases ht : t.busy
  case true => exact .inl rfl
  exact .inr ((busy_eq_false_iff.1 ht).resolve_left (h.not_begun hb).1)

/-- Every step of a running scan lowers the measure (R124). -/
theorem stepsLeft_lt (h : s.BlockMove t) (hb : s.busy = true) (hscan : s.ScanInv) : t.stepsLeft < s.stepsLeft := by
  have hrem := h.rem_le hscan
  rcases h.running_or_terminal hb with ht | ht
  case inr => rw [stepsLeft_terminal ht]; exact stepsLeft_pos hb hscan
  have lower (hlt : pendingSteps t.state < pendingSteps s.state) : t.stepsLeft < s.stepsLeft :=
    stepsLeft_lt_of_pending hb ht hrem hlt
  cases h
  case waits hs => exact absurd (busy_eq_false_iff.2 hs) (by rw [hb]; nofun)
  case headerRead bs hd hs hbs hp =>
    have hlen := windowBytes_length hbs
    have hfits := parse_ok_length hp
    have hsize := parse_size hp
    have hcur := (acceptHeader_inHand hbs hp).2
    have hrem' : ((s.loadWindow bs).acceptHeader hd).rem + 10 ≤ s.rem := by
      rw [State.rem, State.rem, hcur]
      show s.len - _ + 10 ≤ _
      omega
    rw [stepsLeft_running hb, stepsLeft_running ht, hs]
    show _ + 4 < _ + 0
    omega
  case indexed hs _ =>
    refine lower ?_
    rw [state_of_emitted_busy ht, hs]
    decide
  case noSync | badSync | badSize | headerShort | payloadShort | overCap | indexFull | noCandidate => cases ht
  all_goals
    refine lower ?_
    rw [‹s.state = _›]
    exact of_decide_eq_true rfl

end State.BlockMove

/-! ## The statements -/

/-- A running scan over a loaded stream, with nothing pending from the host, ends within any bound on its measure. -/
theorem run_terminates (n : Nat) (hinv : s.Inv) (hl : s.StreamLoaded) (hh : s.host = []) (hb : s.busy = true)
    (hn : s.stepsLeft ≤ n) :
    ∃ k t, k ≤ n ∧ Host.Core.run Sys2Proof.core k s = .next t ∧ t.Terminal := by
  induction n generalizing s with
  | zero =>
    have := stepsLeft_pos hb (hinv.scan hb)
    omega
  | succ n ih =>
    obtain ⟨u, hu⟩ := operation_answers hinv hl
    have hstep : step s = .next u := (step_block hh).trans hu
    have hmove := operation_blockMove hu
    obtain ⟨-, hhost, hstream, hcfg⟩ := hmove.sameInputs
    have hlt := hmove.stepsLeft_lt hb (hinv.scan hb)
    rcases hmove.running_or_terminal hb with hub | hut
    · have hlu : u.StreamLoaded := by rw [State.StreamLoaded, State.len, hstream, hcfg]; exact hl
      obtain ⟨k, t, hk, hrun, ht⟩ := ih (hmove.inv hinv) hlu (hhost.trans hh) hub (by omega)
      exact ⟨k + 1, t, by omega, (run_succ k hstep).trans hrun, ht⟩
    · exact ⟨1, u, by omega, run_succ 0 hstep, hut⟩

/-- Settles O50: `run_terminates` at the measure itself. -/
theorem runningScanTerminates : Obligations.RunningScanTerminates :=
  fun _ hinv hl hh hb => run_terminates _ hinv hl hh hb (Nat.le_refl _)

/-- Settles O51: START leaves the whole stream and the initial search to go. -/
theorem scanTerminatesWithinBound : Obligations.ScanTerminatesWithinBound := by
  intro s hinv hl hh hb hp
  have hstart := execStart_present hb hp
  exact ⟨_, hstart, run_terminates _ (execStart_inv hinv hstart) hl hh rfl (Nat.le_refl _)⟩

end Sys2Proof.Machine
end

section
/-! PROOFS. Well-formed records (spec/30_encoding.md R60, R65, R70): what the block does with one at the cursor, with one
whose payload has a byte changed, and with a stream of them (spec/43_scanner.md R123, R126). -/

namespace Sys2Proof.Machine

/-! ## A record's header -/

/-- The header of a record, both its checksums right (R61, R62, R65). -/
def Record.header (r : Record) : Header :=
  if r.wide then Header.h12 r.id r.family (BitVec.ofNat 32 r.payload.length) (cksum r.payload) (cksum r.covered)
  else Header.h10 r.id r.family (BitVec.ofNat 16 r.payload.length) (cksum r.payload) (cksum r.covered)

/-- The header's bytes on the wire. -/
def Record.headerBytes (r : Record) : List Byte := r.covered ++ bytes16 (cksum r.covered)

variable (r : Record)

theorem Record.bytes_eq : r.bytes = r.headerBytes ++ r.payload := rfl

/-- The header's bytes parse to the header (R93, R94). -/
theorem Record.parse_headerBytes : parseHeader r.headerBytes = .ok r.header := by
  cases hw : r.wide
  case true =>
    have hbytes : r.headerBytes = encode (.rec12 r.id r.family (BitVec.ofNat 32 r.payload.length) (cksum r.payload)
        (cksum r.covered)) := congrArg (· ++ bytes16 (cksum r.covered)) (if_pos hw)
    rw [hbytes, Record.header, if_pos hw, ← parseHeader_rec12 _ _ _ _ _ [], List.append_nil]
  case false =>
    have hwide : ¬ r.wide = true := by rw [hw]; nofun
    have hbytes : r.headerBytes = encode (.rec10 r.id r.family (BitVec.ofNat 16 r.payload.length) (cksum r.payload)
        (cksum r.covered)) := congrArg (· ++ bytes16 (cksum r.covered)) (if_neg hwide)
    rw [hbytes, Record.header, if_neg hwide, ← parseHeader_rec10 _ _ _ _ _ [], List.append_nil]

theorem Record.covered_length : r.covered.length = r.headerSize - 2 := by
  rw [Record.covered, Record.headerSize]
  split <;> rfl

theorem Record.headerBytes_length : r.headerBytes.length = r.headerSize := by
  rw [Record.headerBytes, List.length_append, Record.covered_length, Record.headerSize]
  split <;> rfl

theorem Record.headerSize_cases : r.headerSize = 10 ∨ r.headerSize = 12 := by
  rw [Record.headerSize]
  split <;> simp

theorem Record.bytes_length : r.bytes.length = r.headerSize + r.payload.length := by
  rw [Record.bytes_eq, List.length_append, Record.headerBytes_length]

theorem Record.header_headerSize : r.header.headerSize.toNat = r.headerSize := by
  rw [Record.header, Record.headerSize]
  split <;> rfl

theorem Record.header_wide : (r.header.headerSize == Config.hs12) = r.wide := by
  rw [Record.header]
  cases r.wide <;> rfl

/-- The length field holds the payload's length (R64). -/
theorem Record.header_dataSize (hf : r.Fits) : r.header.dataSize.toNat = r.payload.length := by
  rw [Record.Fits] at hf
  rw [Record.header]
  cases hw : r.wide <;> rw [hw] at hf <;> simp [Header.h10, Header.h12] at hf ⊢ <;> omega

theorem Record.header_dataSize_eq (hf : r.Fits) : r.header.dataSize = BitVec.ofNat 32 r.payload.length := by
  rw [← r.header_dataSize hf, BitVec.ofNat_toNat, BitVec.setWidth_eq]

theorem Record.header_id : r.header.id = r.id := by rw [Record.header]; split <;> rfl
theorem Record.header_family : r.header.family = r.family := by rw [Record.header]; split <;> rfl
theorem Record.header_dataChecksum : r.header.dataChecksum = cksum r.payload := by
  rw [Record.header]; split <;> rfl
theorem Record.header_headerChecksum : r.header.headerChecksum = cksum r.covered := by
  rw [Record.header]; split <;> rfl

variable {r} {s t : State} {p : List Byte}

/-! ## The bytes at the cursor -/

/-- The two parts of bytes that the stream holds. -/
theorem holds_append {a : Nat} {xs ys : List Byte} (h : s.Holds a (xs ++ ys)) :
    s.Holds a xs ∧ s.Holds (a + xs.length) ys := by
  obtain ⟨-, hr⟩ := Memory.readSpan_eq_some.1 h
  rw [List.length_append] at hr
  refine ⟨Memory.readSpan_eq_some.2 ⟨rfl, fun i hi => ?_⟩, Memory.readSpan_eq_some.2 ⟨rfl, fun i hi => ?_⟩⟩
  · rw [hr i (by omega), List.getElem?_append_left hi]
  · rw [Nat.add_assoc, hr (xs.length + i) (by omega), List.getElem?_append_right (by omega), Nat.add_sub_cancel_left]

/-- A run that answers may go on with another. -/
theorem run_add {m : Nat} (h : Host.Core.run Sys2Proof.core m s = .next t) (n : Nat) :
    Host.Core.run Sys2Proof.core (m + n) s = Host.Core.run Sys2Proof.core n t := by
  induction m generalizing s with
  | zero => cases h; rw [Nat.zero_add]
  | succ m ih =>
    rw [Nat.succ_add]
    cases hs : step s with
    | next u => rw [run_succ m hs] at h; rw [run_succ (m + n) hs, ih h]
    | fault e => simp only [Host.Core.run, show Sys2Proof.core.step s = .fault e from hs] at h; cases h
    | refused e => simp only [Host.Core.run, show Sys2Proof.core.step s = .refused e from hs] at h; cases h

/-- READ_HEADER may find a record's header at the cursor, with these bytes as its payload (R60). -/
structure State.HoldsRecord (s : State) (r : Record) (p : List Byte) : Prop where
  fits : r.Fits
  host : s.host = []
  reading : s.state = .readHeader
  loaded : s.StreamLoaded
  holds : s.Holds s.cursor.toNat (r.headerBytes ++ p)
  length : p.length = r.payload.length
  room : s.cursor.toNat + r.headerSize + p.length ≤ s.len

/-- The state in which VALIDATE_PAYLOAD finds the record, its header taken from the window's bytes. -/
def State.recordRead (s : State) (bs : List Byte) (r : Record) (p : List Byte) : State :=
  ((s.loadWindow bs).acceptHeader r.header).headerChecked.payloadRead p

theorem step_of_state (hh : s.host = []) {x : ScanState} (hs : s.state = x) : step s = exec (operationOf x) s :=
  hs ▸ step_block hh

namespace State.HoldsRecord

variable (h : s.HoldsRecord r p)
include h

/-- The window begins with the header's bytes (R92). -/
theorem window {bs : List Byte} (hb : s.windowBytes = some bs) : bs = r.headerBytes ++ bs.drop r.headerSize := by
  have hlen := r.headerBytes_length
  have hsize := r.headerSize_cases
  have hroom := h.room
  rw [← hlen]
  exact holds_window hb (holds_append h.holds).1 (by omega) (by omega)

/-- An offset inside the record fits 64 bits. -/
theorem cursor_toNat {n : Nat} (hn : n ≤ r.headerSize + p.length) :
    (u64 (s.cursor.toNat + n)).toNat = s.cursor.toNat + n := by
  have hL : s.len < 2 ^ 64 := s.cfg.streamLen.isLt
  have hroom := h.room
  exact u64_toNat (by omega)

/-- READ_HEADER reads the record's header (R92 to R95). -/
theorem step_readHeader {bs : List Byte} (hb : s.windowBytes = some bs) :
    step s = .next ((s.loadWindow bs).acceptHeader r.header) := by
  have hparse : parseHeader bs = .ok r.header := by
    rw [h.window hb]
    exact parse_append r.parse_headerBytes _
  rw [step_of_state h.host h.reading]
  show execReadHeader s = _
  rw [execReadHeader_eq hb, hparse]

/-- VALIDATE_HEADER computes the checksum the header states (R65, R116). -/
theorem step_validateHeader {bs : List Byte} (hb : s.windowBytes = some bs) :
    step ((s.loadWindow bs).acceptHeader r.header) = .next ((s.loadWindow bs).acceptHeader r.header).headerChecked := by
  have hlen : bs.length ≤ 12 := by rw [windowBytes_length hb]; omega
  have hspan : ((s.loadWindow bs).acceptHeader r.header).headerSpan = r.covered := by
    show (Window.ofBytes bs).toList.take (r.header.headerSize.toNat - 2) = _
    rw [ofBytes_toList bs hlen, h.window hb, r.header_headerSize, Record.headerBytes, ← r.covered_length,
      List.append_assoc, List.append_assoc, List.take_left]
  refine (step_of_state (s := (s.loadWindow bs).acceptHeader r.header) h.host rfl).trans
    (execValidateHeader_matched (.inr ?_))
  rw [hspan]
  exact r.header_headerChecksum.symm

/-- READ_PAYLOAD reads the bytes after the header (R117). -/
theorem step_readPayload (bs : List Byte) :
    step ((s.loadWindow bs).acceptHeader r.header).headerChecked = .next (s.recordRead bs r p) := by
  have hcur : (u64 (s.cursor.toNat + r.header.headerSize.toNat)).toNat = s.cursor.toNat + r.headerSize := by
    rw [r.header_headerSize, h.cursor_toNat (by omega)]
  have hsize : r.header.dataSize.toNat = p.length := by rw [r.header_dataSize h.fits, h.length]
  have hroom := h.room
  obtain ⟨-, hpay⟩ := holds_append h.holds
  rw [r.headerBytes_length] at hpay
  refine (step_of_state (s := ((s.loadWindow bs).acceptHeader r.header).headerChecked) h.host rfl).trans
    (execReadPayload_complete ?_ ?_)
  · show r.header.dataSize.toNat ≤ s.len - (u64 (s.cursor.toNat + r.header.headerSize.toNat)).toNat
    omega
  · show s.stream.readSpan (u64 (s.cursor.toNat + r.header.headerSize.toNat)).toNat r.header.dataSize.toNat = some p
    rw [hcur, hsize]
    exact hpay

/-- Three steps bring the record's payload in hand. -/
theorem run_recordRead : ∃ bs, Host.Core.run Sys2Proof.core 3 s = .next (s.recordRead bs r p) := by
  obtain ⟨bs, hb⟩ := loaded_window h.loaded
  refine ⟨bs, ?_⟩
  rw [run_succ 2 (h.step_readHeader hb), run_succ 1 (h.step_validateHeader hb), run_succ 0 (h.step_readPayload bs)]
  rfl

/-- The span of the payload checksum is the whole payload (R65). -/
theorem recordRead_payloadSpan (bs : List Byte) : (s.recordRead bs r p).payloadSpan = some p := by
  have hsize : r.header.dataSize.toNat = p.length := by rw [r.header_dataSize h.fits, h.length]
  show (if r.header.dataSize.toNat ≤ p.length then some (p.take r.header.dataSize.toNat) else none) = some p
  rw [hsize, if_pos (Nat.le_refl _), List.take_length]

/-- The cursor behind the record (R117). -/
theorem recordRead_cursor (bs : List Byte) :
    (s.recordRead bs r p).cursor.toNat = s.cursor.toNat + r.headerSize + p.length := by
  have hsize : r.header.dataSize.toNat = p.length := by rw [r.header_dataSize h.fits, h.length]
  show (u64 ((u64 (s.cursor.toNat + r.header.headerSize.toNat)).toNat + r.header.dataSize.toNat)).toNat = _
  rw [r.header_headerSize, h.cursor_toNat (by omega), hsize, Nat.add_assoc, h.cursor_toNat (Nat.le_refl _)]

end State.HoldsRecord

/-! ## One record -/

/-- What EMIT leaves of a well-formed record that was at the cursor of `s` (R120, R123). -/
structure State.RecordIndexed (s : State) (r : Record) (t : State) : Prop where
  inputs : s.SameInputs t
  cursor : t.cursor.toNat = s.cursor.toNat + r.bytes.length
  hdrStart : t.hdrStart = s.cursor
  count : t.count.toNat = s.count.toNat + 1
  newEntry : t.entryAt s.count.toNat = some
    { offset := match s.params.offsetRef with
        | .payload => BitVec.ofNat 64 (s.cursor.toNat + r.headerSize)
        | .header => s.cursor
      length := BitVec.ofNat 32 r.payload.length, id := r.id, known := known r.id }
  oldEntries : ∀ i, i < s.count.toNat → t.entryAt i = s.entryAt i
  failures : t.checksumFailures = s.checksumFailures
  eof : t.earlyEof = s.earlyEof
  used12 : t.used12 = (s.used12 || r.wide)
  family : t.lastFamily = r.family
  state : t.state = if (s.cfg.toArg ≠ 0 ∧ t.count.toNat = s.cfg.toArg.toNat) ∨ t.cursor = s.cfg.streamLen
    then .done else .readHeader

/-- The state in which EMIT finds the record. -/
def State.recordChecked (s : State) (bs : List Byte) (r : Record) (p : List Byte) : State :=
  { (s.recordRead bs r p).payloadChecked (cksum p) with state := .emit }

/-- The offset of a record's entry (R120): its first payload byte, or its sync byte. -/
theorem recordChecked_entryOffset (s : State) (bs : List Byte) (r : Record) (p : List Byte) :
    (s.recordChecked bs r p).entryOffset = match s.params.offsetRef with
      | .payload => BitVec.ofNat 64 (s.cursor.toNat + r.headerSize)
      | .header => s.cursor := by
  have hpay : (s.recordChecked bs r p).payloadStart = BitVec.ofNat 64 (s.cursor.toNat + r.headerSize) := by
    rw [← r.header_headerSize]
    rfl
  rw [State.entryOffset, hpay]
  rfl

/-- EMIT appends the record's entry and leaves its header's marks (R120, R94, R95). -/
theorem State.HoldsRecord.emitted (h : s.HoldsRecord r p) (hc : s.count.toNat < s.params.indexMax.toNat)
    (bs : List Byte) : s.RecordIndexed r ((s.recordChecked bs r p).classified r.id).stopOrGoOn := by
  have hcount : ((s.recordChecked bs r p).classified r.id).stopOrGoOn.count.toNat = s.count.toNat + 1 := by
    rw [emitted_count]
    exact u64_toNat (n := s.count.toNat + 1) (by omega)
  have hcur : ((s.recordChecked bs r p).classified r.id).stopOrGoOn.cursor = (s.recordRead bs r p).cursor := by
    rw [emitted_frame]
    rfl
  have hentry {i : Nat} : ((s.recordChecked bs r p).classified r.id).stopOrGoOn.entryAt i =
      ((s.recordChecked bs r p).idxAppend _ _ _ _).entryAt i :=
    State.entryAt_congr (emitted_idx (s.recordChecked bs r p) r.id) i
  refine { inputs := ?_, cursor := ?_, hdrStart := ?_, count := hcount, newEntry := ?_, oldEntries := fun i hi => ?_,
           failures := ?_, eof := ?_, used12 := ?_, family := ?_, state := ?_ }
  · rw [emitted_frame]; exact ⟨rfl, rfl, rfl, rfl⟩
  · rw [hcur, h.recordRead_cursor, r.bytes_length, h.length, Nat.add_assoc]
  · rw [emitted_frame]; rfl
  · refine (hentry.trans (State.idxAppend_entryAt_new _ _ _ _ _)).trans ?_
    rw [recordChecked_entryOffset, ← r.header_dataSize_eq h.fits]
    rfl
  · exact hentry.trans (State.idxAppend_entryAt_old _ _ _ _ _ hi)
  · rw [emitted_frame]; rfl
  · rw [emitted_frame]; rfl
  · rw [emitted_frame, ← r.header_wide]; rfl
  · rw [emitted_frame]; exact r.header_family
  · rw [hcount, hcur]; exact emitted_state (s := s.recordChecked bs r p) hc r.id

/-- A well-formed record at the cursor is read, validated and indexed in five steps (R123). -/
theorem State.HoldsRecord.run_indexed (h : s.HoldsRecord r r.payload)
    (hc : s.count.toNat < s.params.indexMax.toNat) :
    ∃ t, Host.Core.run Sys2Proof.core 5 s = .next t ∧ s.RecordIndexed r t := by
  obtain ⟨bs, hread⟩ := h.run_recordRead
  have hcheck : step (s.recordRead bs r r.payload) = .next (s.recordChecked bs r r.payload) :=
    (step_of_state (s := s.recordRead bs r r.payload) h.host rfl).trans
      (execValidatePayload_matched (h.recordRead_payloadSpan bs) (.inr r.header_dataChecksum.symm))
  have hemit : step (s.recordChecked bs r r.payload) =
      .next ((s.recordChecked bs r r.payload).classified r.id).stopOrGoOn := by
    rw [← r.header_id]
    exact (step_of_state (s := s.recordChecked bs r r.payload) h.host rfl).trans (execEmit_eq hc)
  refine ⟨_, ?_, h.emitted hc bs⟩
  rw [run_add hread 2, run_succ 1 hcheck, run_succ 0 hemit]
  rfl

/-- A record whose payload's checksum is not the stated one, with the count below the cap, is dropped (R118). -/
theorem State.HoldsRecord.run_dropped (h : s.HoldsRecord r p) (hi : s.cfg.ignoreChecksums = false)
    (hne : cksum p ≠ cksum r.payload) (hcap : s.checksumFailures.toNat < 100) :
    ∃ bs, Host.Core.run Sys2Proof.core 4 s =
      .next { (s.recordRead bs r p).payloadFailed (cksum p) with state := .resync } := by
  obtain ⟨bs, hread⟩ := h.run_recordRead
  have hcount : ¬ 100 < (satInc32 s.checksumFailures).toNat := by rw [satInc32_toNat]; omega
  have hcheck := execValidatePayload_mismatched (h.recordRead_payloadSpan bs) hi
    (fun he => hne (he.trans r.header_dataChecksum))
  refine ⟨bs, ?_⟩
  rw [run_add hread 1, run_succ 0 ((step_of_state (s := s.recordRead bs r p) h.host rfl).trans hcheck)]
  exact congrArg Host.Outcome.next (if_neg hcount)

/-! ## A stream of records -/

/-- The rest of the stream, from the cursor on, is these records, and nothing stops the scan before their end. -/
structure State.RecordsAhead (s : State) (rs : List Record) : Prop where
  fits : ∀ r ∈ rs, r.Fits
  host : s.host = []
  reading : s.state = .readHeader
  loaded : s.StreamLoaded
  holds : s.Holds s.cursor.toNat (rs.flatMap Record.bytes)
  reach : s.cursor.toNat + (rs.flatMap Record.bytes).length = s.len
  room : s.count.toNat + rs.length ≤ s.params.indexMax.toNat
  bound : s.cfg.toArg = 0 ∨ s.count.toNat + rs.length ≤ s.cfg.toArg.toNat

/-- What a scan of these records to its end leaves (R126). -/
structure State.RecordsScanned (s : State) (rs : List Record) (t : State) : Prop where
  state : t.state = .done
  entries : t.entries t.count.toNat = s.entries s.count.toNat ++ indexOf s.params.offsetRef s.cursor.toNat rs
  failures : t.checksumFailures = s.checksumFailures
  eof : t.earlyEof = s.earlyEof
  used12 : t.used12 = (s.used12 || rs.any Record.wide)

theorem entries_congr_below {n : Nat} (h : ∀ i, i < n → t.entryAt i = s.entryAt i) : t.entries n = s.entries n := by
  induction n with
  | zero => rfl
  | succ n ih => rw [State.entries, State.entries, ih fun i hi => h i (by omega), h n (by omega)]

/-- The triples after one more record: the new one last (R144). -/
theorem State.RecordIndexed.entries (h : s.RecordIndexed r t) : t.entries t.count.toNat =
    s.entries s.count.toNat ++ indexOf s.params.offsetRef s.cursor.toNat [r] := by
  rw [h.count, State.entries, entries_congr_below h.oldEntries, h.newEntry]
  refine congrArg (s.entries s.count.toNat ++ ·) ?_
  cases s.params.offsetRef
  case payload => rfl
  case header =>
    show [(s.cursor, _, _)] = [(BitVec.ofNat 64 s.cursor.toNat, _, _)]
    rw [BitVec.ofNat_toNat, BitVec.setWidth_eq]

theorem indexOf_cons (ref : Config.OffsetRef) (p : Nat) (r : Record) (rs : List Record) :
    indexOf ref p (r :: rs) = indexOf ref p [r] ++ indexOf ref (p + r.bytes.length) rs := rfl

/-- Records begin with a sync byte (R60). -/
theorem records_first_byte {rs : List Record} (hne : rs ≠ []) : (rs.flatMap Record.bytes)[0]? = some Config.sync := by
  cases rs with
  | nil => exact absurd rfl hne
  | cons r rs =>
    rw [List.flatMap_cons, Record.bytes, Record.covered]
    cases r.wide <;> rfl

namespace State.RecordsAhead

variable {rs : List Record}

/-- The first of the records is at the cursor. -/
theorem head (h : s.RecordsAhead (r :: rs)) : s.HoldsRecord r r.payload where
  fits := h.fits r List.mem_cons_self
  host := h.host
  reading := h.reading
  loaded := h.loaded
  holds := (holds_append (xs := r.bytes) h.holds).1
  length := rfl
  room := by
    have hreach := h.reach
    have hlen := r.bytes_length
    rw [List.flatMap_cons, List.length_append] at hreach
    omega

/-- The record just indexed ends the stream, or the others are ahead (R120). -/
theorem tail (h : s.RecordsAhead (r :: rs)) (hi : s.RecordIndexed r t) :
    (rs = [] → t.state = .done) ∧ (rs ≠ [] → t.RecordsAhead rs) := by
  obtain ⟨hparams, hhost, hstream, hcfg⟩ := hi.inputs
  have hcur := hi.cursor
  have hcount := hi.count
  have hlen : t.len = s.len := by rw [State.len, hcfg, State.len]
  have hreach : s.cursor.toNat + (r.bytes.length + (rs.flatMap Record.bytes).length) = s.len := by
    rw [← List.length_append]
    exact h.reach
  have hroom : s.count.toNat + (rs.length + 1) ≤ s.params.indexMax.toNat := h.room
  have hbound : s.cfg.toArg = 0 ∨ s.count.toNat + (rs.length + 1) ≤ s.cfg.toArg.toNat := h.bound
  refine ⟨fun hnil => ?_, fun hne => ?_⟩
  · subst hnil
    have hend : t.cursor = s.cfg.streamLen := BitVec.eq_of_toNat_eq (hcur.trans hreach)
    rw [hi.state, if_pos (.inr hend)]
  · have hrest : 0 < rs.length := List.length_pos_of_ne_nil hne
    obtain ⟨hmore, -⟩ := List.getElem?_eq_some_iff.1 (records_first_byte hne)
    exact {
      fits := fun q hq => h.fits q (List.mem_cons_of_mem _ hq)
      host := hhost.trans h.host
      reading := by
        rw [hi.state, if_neg]
        rintro (⟨hto, heq⟩ | heq)
        · have := hbound.resolve_left hto
          omega
        · have : t.cursor.toNat = s.len := by rw [heq]; rfl
          omega
      loaded := by rw [State.StreamLoaded, hlen, hstream]; exact h.loaded
      holds := by
        rw [hcur, State.Holds, hstream]
        exact (holds_append (xs := r.bytes) h.holds).2
      reach := by rw [hcur, hlen]; omega
      room := by rw [hcount, hparams]; omega
      bound := by rw [hcount, hcfg]; exact hbound.imp_right fun hle => by omega }

/-- Five steps for each record scan them all (R126). -/
theorem run_scanned (hne : rs ≠ []) (h : s.RecordsAhead rs) :
    ∃ t, Host.Core.run Sys2Proof.core (5 * rs.length) s = .next t ∧ s.RecordsScanned rs t := by
  induction rs generalizing s with
  | nil => exact absurd rfl hne
  | cons r rs ih =>
    have hroom := h.room
    obtain ⟨u, hrun, hi⟩ := h.head.run_indexed (by rw [List.length_cons] at hroom; omega)
    obtain ⟨hlast, hmore⟩ := h.tail hi
    rw [List.length_cons, Nat.mul_succ, Nat.add_comm, run_add hrun]
    by_cases hnil : rs = []
    · subst hnil
      refine ⟨u, rfl, hlast rfl, hi.entries, hi.failures, hi.eof, ?_⟩
      rw [hi.used12, List.any_cons, List.any_nil, Bool.or_false]
    · obtain ⟨t, hrest, hs⟩ := ih hnil (hmore hnil)
      refine ⟨t, hrest, hs.state, ?_, hs.failures.trans hi.failures, hs.eof.trans hi.eof, ?_⟩
      · rw [hs.entries, hi.entries, hi.inputs.params, hi.cursor, List.append_assoc, ← indexOf_cons]
      · rw [hs.used12, hi.used12, List.any_cons, Bool.or_assoc]

end State.RecordsAhead

/-! ## The statements -/

/-- Settles O52: the record at the cursor, `State.HoldsRecord.run_indexed`. -/
theorem wellFormedRecordIsIndexed : Obligations.WellFormedRecordIsIndexed := by
  intro s r hf hh hs hl hhold hroom hc
  have hrec : s.HoldsRecord r r.payload :=
    ⟨hf, hh, hs, hl, hhold, rfl, by rw [Nat.add_assoc, ← r.bytes_length]; exact hroom⟩
  obtain ⟨t, hrun, hi⟩ := hrec.run_indexed hc
  exact ⟨t, hrun, hi.cursor, hi.hdrStart, hi.count, hi.newEntry, hi.failures, hi.eof, hi.used12, hi.family, hi.state⟩

/-- Settles O53: one byte changed changes the checksum (`cksum_ne_of_byte_ne`), so the record is dropped. -/
theorem corruptedPayloadIsDropped : Obligations.CorruptedPayloadIsDropped := by
  intro s r xs ys a b hf hh hs hl hi hpay hab hhold hroom hcap
  have hlen : (xs ++ b :: ys).length = r.payload.length := by rw [hpay]; simp
  have hne : cksum (xs ++ b :: ys) ≠ cksum r.payload := by
    rw [hpay]
    exact cksum_ne_of_byte_ne xs ys hab.symm
  have hrec : s.HoldsRecord r (xs ++ b :: ys) :=
    ⟨hf, hh, hs, hl, hhold, hlen, by rw [hlen, Nat.add_assoc, ← r.bytes_length]; exact hroom⟩
  obtain ⟨bs, hrun⟩ := hrec.run_dropped hi hne hcap
  refine ⟨_, hrun, rfl, ?_, ?_, rfl, rfl, r.header_family, rfl⟩
  · rw [r.bytes_length, ← hlen, ← Nat.add_assoc]
    exact hrec.recordRead_cursor bs
  · show (satInc32 s.checksumFailures).toNat = _
    rw [satInc32_toNat]
    omega

/-- Settles O54: the initial search finds the first record's sync byte at 0, and then all the records are ahead. -/
theorem wellFormedStreamRoundTrip : Obligations.WellFormedStreamRoundTrip := by
  intro s rs hb hh hp hne hfits hl hlen hhold hroom hbound
  obtain ⟨hpos, -⟩ := List.getElem?_eq_some_iff.1 (records_first_byte hne)
  have hsync : s.stream.read 0 = some Config.sync :=
    ((Memory.readSpan_eq_some.1 hhold).2 0 hpos).trans (records_first_byte hne)
  let t0 : State := { s.beginScan with state := .seekingSync }
  let t1 : State := { t0 with cursor := u64 0, state := .readHeader }
  have hseek : step t0 = .next t1 := (step_of_state (s := t0) hh rfl).trans <|
    (execSeekingSync_first (s := t0) hl (Nat.zero_le _)).1 0 (Nat.le_refl _) (hlen ▸ hpos) hsync
      fun a _ ha => absurd ha (Nat.not_lt_zero a)
  have hahead : t1.RecordsAhead rs := {
    fits := hfits, host := hh, reading := rfl, loaded := hl, holds := hhold
    reach := (Nat.zero_add _).trans hlen.symm
    room := (Nat.zero_add _).trans_le hroom
    bound := hbound.imp_right (Nat.zero_add _).trans_le }
  obtain ⟨t, hrun, hs⟩ := hahead.run_scanned hne
  refine ⟨t0, t, execStart_present hb hp, (run_succ _ hseek).trans hrun, ?_⟩
  rw [result_done hs.state, hs.entries, hs.failures, hs.eof, hs.used12]
  rfl

end Sys2Proof.Machine
end

section
/-! PROOFS. The buffer controllers (spec/44_buffers.md R141, R142, R145): all that an append and a growth of the payload
buffer change, and their FUNC rows. -/

namespace Sys2Proof.Machine

variable {s : State}

/-! ## The index controller -/

/-- All that an append changes: the index, its count and its capacity (R141, R142). -/
theorem State.idxAppend_frame (s : State) (off : U64) (len : U32) (id : Byte) (k : Bool) :
    s.idxAppend off len id k = { s with
      idx := (s.idxAppend off len id k).idx, count := BitVec.ofNat 64 (s.count.toNat + 1),
      idxCap := s.capAfterAppend } := rfl

theorem exec_idxAppend_full (h : s.params.indexMax.toNat ≤ s.count.toNat) (off : U64) (len : U32) (id : Byte)
    (k : Bool) : exec (.idxAppend off len id k) s = .fault .indexAppendPrecondition :=
  if_neg (Nat.not_lt.2 h)

theorem exec_idxAppend_room (h : s.count.toNat < s.params.indexMax.toNat) (off : U64) (len : U32) (id : Byte)
    (k : Bool) : exec (.idxAppend off len id k) s = .next (s.idxAppend off len id k) :=
  if_pos h

/-- Settles O30: with room the row is the append, which writes its entry alone (`State.idxAppend_written`). -/
theorem idxAppendWritesSixteenBytes : Obligations.IdxAppendWritesSixteenBytes := by
  intro s off len id k
  refine ⟨fun hfull => exec_idxAppend_full hfull off len id k, fun hroom => ?_⟩
  refine ⟨(s.idxAppend off len id k).idx, ?_, State.idxAppend_written s off len id k⟩
  rw [exec_idxAppend_room hroom, ← State.idxAppend_frame]

/-! ## The payload buffer controller -/

theorem State.growPbuf_of_lt (h : s.pbufCap.toNat < s.h.dataSize.toNat) :
    s.growPbuf = { s with pbufCap := s.h.dataSize } := by
  rw [State.growPbuf, if_pos h]

theorem State.growPbuf_of_le (h : s.h.dataSize.toNat ≤ s.pbufCap.toNat) : s.growPbuf = s := by
  rw [State.growPbuf, if_neg (Nat.not_lt.2 h)]

/-- Settles O31: the row is `State.growPbuf`, by whether the capacity is below `data_size`. -/
theorem pbufGrowFollowsDataSize : Obligations.PbufGrowFollowsDataSize := by
  intro s
  have hrow : exec .pbufGrow s = .next s.growPbuf := rfl
  refine ⟨fun hlt => ?_, fun hle => ?_⟩
  · rw [hrow, State.growPbuf_of_lt hlt]
  · rw [hrow, State.growPbuf_of_le hle]

end Sys2Proof.Machine
end

section
/-! PROOFS. The ERR rows (spec/60_exceptions.md R150, R151): a code that decodes raises the condition of that code, and what
STATUS shows of a state that raised one. -/

namespace Sys2Proof.Machine

/-- A code that decodes selects a row that does nothing but raise the condition with that code (R150, R151). -/
theorem exec_of_decodeErr {c : Code4} {i : Instr} (h : decodeErr c = .ok i) (s : State) :
    ∃ e off, exec i s = .next (s.raiseFatal e off) ∧ errorCode e = c := by
  rw [decodeErr] at h
  split at h <;> cases h
  next hc => exact ⟨.cannotOpen, 0, rfl, BitVec.eq_of_toNat_eq hc.symm⟩
  next hc => exact ⟨.noSync, s.cfg.streamLen, rfl, BitVec.eq_of_toNat_eq hc.symm⟩
  next hc => exact ⟨.badSync, s.hdrStart, rfl, BitVec.eq_of_toNat_eq hc.symm⟩
  next hc => exact ⟨.hdrSize, s.hdrStart, rfl, BitVec.eq_of_toNat_eq hc.symm⟩
  next hc => exact ⟨.cksumCap, s.hdrStart, rfl, BitVec.eq_of_toNat_eq hc.symm⟩
  next hc => exact ⟨.indexFull, s.hdrStart, rfl, BitVec.eq_of_toNat_eq hc.symm⟩

/-- STATUS after a raise: the condition's code in bits 15:12, and the FATAL bit set (R22, R151). -/
theorem State.raiseFatal_status (s : State) (e : ErrCode) (off : U64) :
    ((s.raiseFatal e off).busRead 0x04).toNat / 4096 = (errorCode e).toNat ∧
      ((s.raiseFatal e off).busRead 0x04).getLsbD 6 = true := by
  obtain ⟨-, -, -, hfatal, -, -, -, -, -, hcode⟩ := statusFields (s.raiseFatal e off)
  exact ⟨hcode, hfatal⟩

/-- Settles O32: each row is `State.raiseFatal` at its own code and offset; a code that decodes raises its own condition,
which STATUS then shows. -/
theorem raiseRecordsCodeAndOffset : Obligations.RaiseRecordsCodeAndOffset := by
  refine ⟨fun s => ⟨rfl, rfl, rfl, rfl, rfl, rfl⟩, fun c i s h => ?_⟩
  obtain ⟨e, off, hexec, rfl⟩ := exec_of_decodeErr h s
  exact ⟨s.raiseFatal e off, hexec, rfl, s.raiseFatal_status e off⟩

end Sys2Proof.Machine
end

section
/-! PROOFS. Bytes the host never placed (spec/70_reset_and_hazards.md R175; log entries 3 and 5): a span over an absent byte
has no value, so each operation that reads the stream or the payload buffer there stops by name. -/

namespace Sys2Proof.Machine

variable {s : State} {p : Nat}

/-! ## Spans over an absent byte -/

theorem Memory.readSpan_of_absent {m : Memory} {a n : Nat} (hp : m.read p = none) (hge : a ≤ p) (hlt : p < a + n) :
    m.readSpan a n = none := by
  refine Option.eq_none_iff_forall_ne_some.2 fun bs hbs => ?_
  have hlen := Memory.readSpan_length hbs
  have hread := Memory.readSpan_read hbs (i := p - a) (by omega)
  rw [Nat.add_sub_cancel' hge, hp, List.getElem?_eq_getElem (by omega)] at hread
  cases hread

/-- The header window has no value over an absent byte of the stream (R92). -/
theorem windowBytes_of_absent (hp : s.stream.read p = none) (hge : s.cursor.toNat ≤ p) (hlen : p < s.len)
    (hlt : p < s.cursor.toNat + 12) : s.windowBytes = none :=
  Memory.readSpan_of_absent hp hge (by rw [Config.hdrWindow]; omega)

/-! ## The operations that read the stream -/

theorem execSeekingSync_of_absent (hp : s.stream.read p = none) (hge : s.cursor.toNat ≤ p) (hlen : p < s.len)
    (hfirst : ∀ a, s.cursor.toNat ≤ a → a < p → s.stream.read a ≠ some Config.sync) :
    execSeekingSync s = .fault .streamByteAbsent := by
  rw [execSeekingSync, findSync_absent hp s.rem _ hge (by rw [State.rem]; omega) hfirst]

theorem execReadHeader_of_absent (hb : s.windowBytes = none) : execReadHeader s = .fault .streamByteAbsent := by
  rw [execReadHeader, hb]

theorem readRecord_of_absent (hb : s.windowBytes = none) (h : Header) :
    s.readRecord h = .fault .streamByteAbsent := by
  rw [State.readRecord, hb]

/-- READ_PAYLOAD of a payload that fits, over an absent byte (R117). -/
theorem execReadPayload_of_absent (hfits : s.h.dataSize.toNat ≤ s.rem) (hb : s.payloadBytes = none) :
    execReadPayload s = .fault .streamByteAbsent := by
  rw [execReadPayload_eq, if_neg (Nat.not_lt.2 hfits), hb]

/-- The resynchronizer's search from `c` stops at an absent byte that no plausible header ends before (R101). -/
theorem resyncFrom_of_absent (hp : s.stream.read p = none) {c : Nat} (hge : c ≤ p) (hlen : p < s.len)
    (hnone : ∀ a, c ≤ a → a < p → s.Plausible a → p ≤ a + 3) : s.resyncFrom c = .fault .streamByteAbsent := by
  rw [State.resyncFrom, findCandidate_absent hp _ c (by omega) hge hlen hnone, State.endSearch]

/-! ## The payload buffer -/

/-- VALIDATE_PAYLOAD over a buffer that holds fewer than `data_size` bytes (R23; log entry 5). -/
theorem execValidatePayload_of_absent (h : s.pbuf.length < s.h.dataSize.toNat) :
    execValidatePayload s = .fault .payloadByteAbsent := by
  rw [execValidatePayload, State.payloadSpan, if_neg (Nat.not_le.2 h)]

/-- Settles O38: a search meets the absent byte first, and a span over it has no value. -/
theorem absentBytesStopByName : Obligations.AbsentBytesStopByName := by
  refine fun s => ⟨fun p hge hlen hp => ⟨?sync, ?header, ?payload, ?resync, ?candidate⟩,
    execValidatePayload_of_absent⟩
  case sync => exact execSeekingSync_of_absent hp hge hlen
  case header =>
    intro hlt
    have hb := windowBytes_of_absent hp hge hlen hlt
    exact ⟨execReadHeader_of_absent hb, fun _ _ _ _ _ => readRecord_of_absent hb _,
      fun _ _ _ _ _ => readRecord_of_absent hb _⟩
  case payload => exact fun hlt hfits => execReadPayload_of_absent hfits (Memory.readSpan_of_absent hp hge hlt)
  case resync => exact resyncFrom_of_absent hp hge hlen
  case candidate =>
    intro hnone hlt id family hreject
    have hstop : s.tryCandidate family = .fault .streamByteAbsent :=
      (tryCandidate_rejects hreject).trans (resyncFrom_of_absent hp hlt hlen hnone)
    exact ⟨hstop, hstop⟩

end Sys2Proof.Machine
end

section
/-! PROOFS. Reset and the start of a scan (spec/70_reset_and_hazards.md R170 to R172): what the register map reads after
reset, SOFT_RESET, and that START keeps nothing of the scans before it. -/

namespace Sys2Proof.Machine

variable {s t : State}

/-! ## Reset -/

theorem hi32_zero : hi32 0 = 0 := by decide

/-- After reset every register but LAST_FAMILY and the two halves of IDX_CAP holds 0 (R170). -/
theorem readReg_resetWith_eq_zero (p : Config.Params) {r : Reg} (hfamily : r ≠ .lastFamily) (hlo : r ≠ .idxCapLo)
    (hhi : r ≠ .idxCapHi) : (State.resetWith p).readReg r = 0 := by
  cases r
  case lastFamily => exact absurd rfl hfamily
  case idxCapLo => exact absurd rfl hlo
  case idxCapHi => exact absurd rfl hhi
  case streamLenHi | countHi | cursorHi | errOffsetHi | hdrStartHi | payloadStartHi => exact hi32_zero
  all_goals rfl

/-- What the host reads at any offset after reset (R22, R170; log entry 17). -/
theorem busRead_resetWith (p : Config.Params) (o : Nat) :
    (State.resetWith p).busRead o =
      if o = 0x48 then 0x10 else if o = 0x50 then lo32 p.indexCap0 else if o = 0x54 then hi32 p.indexCap0 else 0 := by
  split
  next h => rw [h]; rfl
  next hfamily =>
  split
  next h => rw [h]; rfl
  next hlo =>
  split
  next h => rw [h]; rfl
  next hhi =>
  rw [State.busRead]
  cases hr : regAt o with
  | none => rfl
  | some r =>
    obtain rfl := regAt_eq_some.1 hr
    exact readReg_resetWith_eq_zero p (fun h => hfamily (h ▸ rfl)) (fun h => hlo (h ▸ rfl)) fun h => hhi (h ▸ rfl)

/-- Settles O9: the map by `busRead_resetWith`, the other fields by the definition of reset. -/
theorem resetRegistersReadAsSpecified : Obligations.ResetRegistersReadAsSpecified :=
  fun p => ⟨busRead_resetWith p, rfl, rfl, rfl, rfl, rfl, rfl, rfl, rfl, rfl, rfl⟩

/-- Settles O10: the row is `State.resetBlock`, hardware reset but for the host's side. -/
theorem softResetIsReset : Obligations.SoftResetIsReset := fun _ => rfl

/-! ## START -/

/-- What START initialises leaves of a state its inputs and the scanner state alone (R111, R172). -/
theorem beginScan_congr (hcfg : s.cfg = t.cfg) (hstream : s.stream = t.stream) (hparams : s.params = t.params)
    (hhost : s.host = t.host) (hdata : s.hostData = t.hostData) :
    s.beginScan = { t.beginScan with state := s.state } := by
  simp only [State.beginScan, hcfg, hstream, hparams, hhost, hdata]

/-- Settles O12: START overwrites the scanner state, all that `State.beginScan` keeps of a state besides its inputs. -/
theorem scanStartForgetsHistory : Obligations.ScanStartForgetsHistory := by
  intro s t hs ht hcfg hstream hparams hhost hdata
  have hbegin := beginScan_congr hcfg hstream hparams hhost hdata
  show execStart s = execStart t
  cases hp : s.cfg.streamPresent with
  | true => rw [execStart_present hs hp, execStart_present ht (hcfg ▸ hp), hbegin]
  | false =>
    rw [execStart_absent hs hp, execStart_absent ht (hcfg ▸ hp), hbegin]
    rfl

end Sys2Proof.Machine
end
